-- ==== Sys2Proof/Word.lean ====
section
/-! DEFINITION. The block's word types (00_scope.md R9: a byte is an unsigned 8-bit value; u16, u24 and u32 are
unsigned values of 16, 24 and 32 bits; nothing in the block is signed). -/
namespace Sys2Proof

/-- An unsigned 8-bit value (R9). -/
abbrev Byte := BitVec 8

/-- An unsigned 16-bit value (R9): the width of the two capacities (R24). -/
abbrev U16 := BitVec 16

/-- An unsigned 24-bit value (R9): the width of every address and length on the wire (R45). -/
abbrev U24 := BitVec 24

/-- A chip address: 24 bits, `ADDR_BITS` of R7. BitVec addition on it is `wrap24` (R9, R48). -/
abbrev Addr := BitVec 24

/-- An unsigned 32-bit value (R9): the width of the error counter (R23). -/
abbrev U32 := BitVec 32

end Sys2Proof
end

