-- ==== Sys2Proof/Config.lean ====
section
/-! DEFINITION. What an implementation fixes (00_scope.md R7, R8) and the free values: constants with no body, of which no
proof can see a value. -/
namespace Sys2Proof

/-- `P_OPCODE` (R7): the opcode byte of each of the 11 commands. -/
structure OpcodeMap where
  queryName : Byte
  opbufInit : Byte
  queryOpbufSize : Byte
  querySerbufSize : Byte
  opbufWriten : Byte
  opbufSetSdp : Byte
  opbufResetSdp : Byte
  opbufExec : Byte
  readN : Byte
  errorcntQuery : Byte
  errorcntReset : Byte
  deriving DecidableEq, Repr

/-- The default opcode bytes (30_encoding.md R63, the spec's decision D1). -/
def OpcodeMap.default : OpcodeMap where
  queryName := 0x01
  opbufInit := 0x02
  queryOpbufSize := 0x03
  querySerbufSize := 0x04
  opbufWriten := 0x05
  opbufSetSdp := 0x06
  opbufResetSdp := 0x07
  opbufExec := 0x08
  readN := 0x09
  errorcntQuery := 0x0A
  errorcntReset := 0x0B

/-- `P_NAK_POLICY` (R7; 42_host_session.md R122). -/
inductive NakPolicy where
  | proceedReported
  | fatal
  deriving DecidableEq, Repr

/-- `P_RX_WHILE_BUSY` (R7; 70_reset_and_hazards.md R166). -/
inductive RxWhileBusy where
  | buffered
  | dropped
  | either
  deriving DecidableEq, Repr

/-- The configuration of R7, fixed for the life of a device: no step writes it (R35, R110). It is plain data, so that a
statement over all states is a statement over all configurations (log 1). -/
structure Config where
  /-- `P_OPBUF_CAP`: reported by QUERY_OPBUF_SIZE. -/
  opbufCap : U16
  /-- `P_SERBUF_CAP`: reported by QUERY_SERBUF_SIZE. -/
  serbufCap : U16
  /-- `P_POLL_LIMIT`: samples per polled write, at least 1. -/
  pollLimit : Nat
  /-- `P_CHUNK_CONST`: the host's conservative chunk bound, at least 1. -/
  chunkConst : Nat
  /-- `P_HOST_TIMEOUT` in seconds. No rule depends on its value (R174): expiry is a free choice (log 9). -/
  hostTimeout : Nat
  /-- `P_WE_PULSE`: the write-pulse length, OPEN and without a unit in the spec. No rule depends on it (R86, R174). -/
  wePulse : Nat
  /-- `P_BOARD_NAME`: at most 16 bytes. -/
  boardName : List Byte
  /-- `P_SDP_SET_SEQ` (R90). -/
  sdpSet : List (Addr × Byte)
  /-- `P_SDP_CLEAR_SEQ` (R90). -/
  sdpClear : List (Addr × Byte)
  /-- `P_OPCODE` (R63). -/
  opcodes : OpcodeMap
  /-- `P_ACK` (R70). -/
  ack : Byte
  /-- `P_NAK` (R70). -/
  nak : Byte
  /-- `P_NAK_POLICY` (R122). -/
  nakPolicy : NakPolicy
  /-- `P_RX_WHILE_BUSY` (R166). -/
  rxWhileBusy : RxWhileBusy
  deriving DecidableEq, Repr

/-- The defaults of R7, R63, R70 and R90. `boardName` is the test vectors' TESTBOARD (95_test_vectors.md; OPEN in R7:
DESIGN CHOICE, log 1) and `wePulse` is 1 (OPEN, read by no rule: DESIGN CHOICE, log 1). -/
def Config.default : Config where
  opbufCap := 128
  serbufCap := 64
  pollLimit := 500
  chunkConst := 64
  hostTimeout := 10
  wePulse := 1
  boardName := [0x54, 0x45, 0x53, 0x54, 0x42, 0x4F, 0x41, 0x52, 0x44]
  sdpSet := [(0x005555, 0xAA), (0x002AAA, 0x55), (0x005555, 0xA0)]
  sdpClear := [(0x005555, 0xAA), (0x002AAA, 0x55), (0x005555, 0x80),
    (0x005555, 0xAA), (0x002AAA, 0x55), (0x005555, 0x20)]
  opcodes := OpcodeMap.default
  ack := 0x06
  nak := 0x15
  nakPolicy := .proceedReported
  rxWhileBusy := .either

/-- A constraint of R8: what a refused configuration breaks. -/
inductive Constraint where
  /-- R8 (1): `P_POLL_LIMIT ≥ 1`. -/
  | pollLimit
  /-- R8 (2): `P_CHUNK_CONST ≥ 1`. -/
  | chunkConst
  /-- R8 (3): `len(P_BOARD_NAME) ≤ 16`. -/
  | boardName
  /-- R8 (4): `P_ACK ≠ P_NAK`. -/
  | ackNak
  /-- R8 (5): `P_OPCODE` is injective. -/
  | opcodes
  deriving DecidableEq, Repr

/-- What a bus cycle did: a read, a write, or a write cut off by a device reset (R162). -/
inductive CycleKind where
  | read
  | write
  | cutWrite
  deriving DecidableEq, Repr

/-- One bus cycle as the chip sees it (40_memory_driver.md R85): the address presented, the byte sampled or driven, and
the control signals asserted during it. -/
structure BusCycle where
  kind : CycleKind
  addr : Addr
  data : Byte
  oe : Bool
  ce : Bool
  drive : Bool
  deriving DecidableEq, Repr

/-- FREE VALUE: what the external chip drives on a read (20_memory.md R44: a draw that may depend on the whole history of
bus cycles). The first argument is that history, newest first; the second the address presented. No body (log 3). -/
opaque Config.chipAnswer : List BusCycle → Addr → Byte

/-- FREE VALUE: the n-th choice the spec leaves open in a run: which agent moves, whether a response is in time, whether a
byte arriving while BUSY is kept, and the rest of log 6. No body. -/
opaque Config.freeChoice : Nat → Nat

end Sys2Proof
end

