-- ==== Sys2Proof/Syntax.lean ====
section
/-! DEFINITION. The instruction set: the 11 wire commands of 30_encoding.md R62 and R63, one constructor of Instr per row
of spec/opcode_table.json. -/
namespace Sys2Proof

/-- The 11 logical opcodes (R63). -/
inductive Opcode where
  | queryName
  | opbufInit
  | queryOpbufSize
  | querySerbufSize
  | opbufWriten
  | opbufSetSdp
  | opbufResetSdp
  | opbufExec
  | readN
  | errorcntQuery
  | errorcntReset
  deriving DecidableEq, Repr

/-- The request formats of R62. -/
inductive Format where
  /-- `F_BARE`: the opcode byte alone. -/
  | bare
  /-- `F_WRITEN`: len, addr, then len data bytes. -/
  | writen
  /-- `F_READN`: addr, then len. -/
  | readn
  deriving DecidableEq, Repr

/-- A request, as the device executes it. -/
inductive Instr where
  /-- QUERY_NAME (R97). -/
  | queryName
  /-- OPBUF_INIT (R100). -/
  | opbufInit
  /-- QUERY_OPBUF_SIZE (R98). -/
  | queryOpbufSize
  /-- QUERY_SERBUF_SIZE (R99). -/
  | querySerbufSize
  /-- OPBUF_WRITEN (R101): operands in wire order (C3). `data` is the data bytes the receiver kept; on the wire there
  are exactly `len` of them (R65), and a frame longer than serbuf_cap is kept only in part (R95). -/
  | opbufWriten (len : U24) (addr : Addr) (data : List Byte)
  /-- OPBUF_SET_SDP (R102). -/
  | opbufSetSdp
  /-- OPBUF_RESET_SDP (R103). -/
  | opbufResetSdp
  /-- OPBUF_EXEC (R104). -/
  | opbufExec
  /-- READ_N (R105): operands in wire order. -/
  | readN (addr : Addr) (len : U24)
  /-- ERRORCNT_QUERY (R112). -/
  | errorcntQuery
  /-- ERRORCNT_RESET (R113). -/
  | errorcntReset
  deriving DecidableEq, Repr

/-- The opcode of a request. -/
def Instr.opcode : Instr → Opcode
  | .queryName => .queryName
  | .opbufInit => .opbufInit
  | .queryOpbufSize => .queryOpbufSize
  | .querySerbufSize => .querySerbufSize
  | .opbufWriten _ _ _ => .opbufWriten
  | .opbufSetSdp => .opbufSetSdp
  | .opbufResetSdp => .opbufResetSdp
  | .opbufExec => .opbufExec
  | .readN _ _ => .readN
  | .errorcntQuery => .errorcntQuery
  | .errorcntReset => .errorcntReset

end Sys2Proof
end

