-- ==== Sys2Proof/WellFormed.lean ====
section
/-! DEFINITION. Which instructions a frame can spell (30_encoding.md R65, R67). -/
namespace Sys2Proof

/-- OPBUF_WRITEN's data is exactly `len` bytes (R65: "data is exactly the next len bytes"). Every other field takes every
value of its width: any u24 address and length is legal (R47, R67). -/
def Instr.wf : Instr → Bool
  | .opbufWriten len _ data => decide (data.length = len.toNat)
  | .queryName => true
  | .opbufInit => true
  | .queryOpbufSize => true
  | .querySerbufSize => true
  | .opbufSetSdp => true
  | .opbufResetSdp => true
  | .opbufExec => true
  | .readN _ _ => true
  | .errorcntQuery => true
  | .errorcntReset => true

end Sys2Proof
end

