-- ==== Sys2Proof/Decode.lean ====
section
/-! DEFINITION. The request decoder and encoder (30_encoding.md R61 to R80), over the opcode map `P_OPCODE`. -/
namespace Sys2Proof

/-- All 11 opcodes, in the order of R63. -/
def allOpcodes : List Opcode :=
  [.queryName, .opbufInit, .queryOpbufSize, .querySerbufSize, .opbufWriten, .opbufSetSdp, .opbufResetSdp, .opbufExec,
    .readN, .errorcntQuery, .errorcntReset]

/-- `P_OPCODE(m)` (R63). -/
def opcodeByte (ops : OpcodeMap) : Opcode → Byte
  | .queryName => ops.queryName
  | .opbufInit => ops.opbufInit
  | .queryOpbufSize => ops.queryOpbufSize
  | .querySerbufSize => ops.querySerbufSize
  | .opbufWriten => ops.opbufWriten
  | .opbufSetSdp => ops.opbufSetSdp
  | .opbufResetSdp => ops.opbufResetSdp
  | .opbufExec => ops.opbufExec
  | .readN => ops.readN
  | .errorcntQuery => ops.errorcntQuery
  | .errorcntReset => ops.errorcntReset

/-- The command an opcode byte selects; `none` is unassigned (R72). All 8 bits take part in the match (R63). -/
def opcodeOf (ops : OpcodeMap) (b : Byte) : Option Opcode :=
  allOpcodes.find? fun o => opcodeByte ops o == b

/-- The request format of a command (R62). -/
def formatOf : Opcode → Format
  | .opbufWriten => .writen
  | .readN => .readn
  | .queryName => .bare
  | .opbufInit => .bare
  | .queryOpbufSize => .bare
  | .querySerbufSize => .bare
  | .opbufSetSdp => .bare
  | .opbufResetSdp => .bare
  | .opbufExec => .bare
  | .errorcntQuery => .bare
  | .errorcntReset => .bare

/-- The instruction a command and its decoded operands make (R65, R66). -/
def buildInstr (op : Opcode) (len : U24) (addr : Addr) (data : List Byte) : Instr :=
  match op with
  | .queryName => .queryName
  | .opbufInit => .opbufInit
  | .queryOpbufSize => .queryOpbufSize
  | .querySerbufSize => .querySerbufSize
  | .opbufWriten => .opbufWriten len addr data
  | .opbufSetSdp => .opbufSetSdp
  | .opbufResetSdp => .opbufResetSdp
  | .opbufExec => .opbufExec
  | .readN => .readN addr len
  | .errorcntQuery => .errorcntQuery
  | .errorcntReset => .errorcntReset

/-- `le24` (R9): three bytes, least significant first. -/
def le24 (v : U24) : List Byte :=
  [v.extractLsb' 0 8, v.extractLsb' 8 8, v.extractLsb' 16 8]

/-- `unle24` (R9): `b0 | (b1 << 8) | (b2 << 16)`. -/
def unle24 (b0 b1 b2 : Byte) : U24 :=
  b0.setWidth 24 ||| (b1.setWidth 24 <<< 8) ||| (b2.setWidth 24 <<< 16)

/-- Why a byte list is no complete request. -/
inductive DecodeError where
  /-- There is no byte. -/
  | empty
  /-- The first byte is unassigned: a complete 1-byte request that selects no command (R72). -/
  | unassigned (b : Byte)
  /-- The frame is not complete yet (R165: the device waits for the rest). -/
  | truncated (op : Opcode)
  deriving DecidableEq, Repr

/-- Reads one request from the front of a byte list, and gives the bytes after it (R65, R66, R74, R80). Total on any
bytes. -/
def decodeFrame (ops : OpcodeMap) : List Byte → Except DecodeError (Instr × List Byte)
  | [] => .error .empty
  | b :: rest =>
    match opcodeOf ops b with
    | none => .error (.unassigned b)
    | some op =>
      match formatOf op, rest with
      | .bare, rest => .ok (buildInstr op 0 0 [], rest)
      | .writen, b1 :: b2 :: b3 :: b4 :: b5 :: b6 :: tail =>
        if tail.length < (unle24 b1 b2 b3).toNat then .error (.truncated op)
        else .ok (buildInstr op (unle24 b1 b2 b3) (unle24 b4 b5 b6) (tail.take (unle24 b1 b2 b3).toNat),
          tail.drop (unle24 b1 b2 b3).toNat)
      | .readn, b1 :: b2 :: b3 :: b4 :: b5 :: b6 :: tail =>
        .ok (buildInstr op (unle24 b4 b5 b6) (unle24 b1 b2 b3) [], tail)
      | .writen, _ => .error (.truncated op)
      | .readn, _ => .error (.truncated op)

/-- The encoding functions of R68 (`enc_bare`, `enc_writen`, `enc_readn`), the inverse of the decoder. -/
def encode (ops : OpcodeMap) (i : Instr) : List Byte :=
  opcodeByte ops i.opcode ::
    match i with
    | .opbufWriten len addr data => le24 len ++ le24 addr ++ data
    | .readN addr len => le24 addr ++ le24 len
    | .queryName => []
    | .opbufInit => []
    | .queryOpbufSize => []
    | .querySerbufSize => []
    | .opbufSetSdp => []
    | .opbufResetSdp => []
    | .opbufExec => []
    | .errorcntQuery => []
    | .errorcntReset => []

/-- The length of a request in bytes (R62, R74). -/
def frameLength : Instr → Nat
  | .opbufWriten len _ _ => 7 + len.toNat
  | .readN _ _ => 7
  | .queryName => 1
  | .opbufInit => 1
  | .queryOpbufSize => 1
  | .querySerbufSize => 1
  | .opbufSetSdp => 1
  | .opbufResetSdp => 1
  | .opbufExec => 1
  | .errorcntQuery => 1
  | .errorcntReset => 1

/-- The payload length of the response to a request (R64): known from the request alone (R71). -/
def payloadLength : Instr → Nat
  | .queryName => 16
  | .queryOpbufSize => 2
  | .querySerbufSize => 2
  | .errorcntQuery => 4
  | .readN _ len => len.toNat
  | .opbufInit => 0
  | .opbufWriten _ _ _ => 0
  | .opbufSetSdp => 0
  | .opbufResetSdp => 0
  | .opbufExec => 0
  | .errorcntReset => 0

/-- The request the receiver registers hold once a frame is complete (R96): `rx_op` selects the command, and
`rx_len`, `rx_addr`, `rx_data` are its operands; `none` is an unassigned opcode (R106). -/
def requestOf (ops : OpcodeMap) (rxOp : Byte) (rxLen : U24) (rxAddr : Addr) (rxData : List Byte) : Option Instr :=
  (opcodeOf ops rxOp).map fun op => buildInstr op rxLen rxAddr rxData

/-- Byte `i` of an instruction numbered as spec/opcode_table.json numbers it: the first byte is bits 7..0. -/
def tableByte (nbits w i : Nat) : Byte :=
  BitVec.ofNat 8 ((w % 2 ^ nbits) / 2 ^ (8 * i))

/-- The bytes of an instruction of the table, its bits above `nbits` zero: the opcode, six header bytes, and, for
OPBUF_WRITEN, as many data bytes as its length field asks for. -/
def tableBytes (nbits w : Nat) : List Byte :=
  let first := tableByte nbits w 0
  match (opcodeOf OpcodeMap.default first).map formatOf with
  | some .writen =>
    (List.range (7 + (unle24 (tableByte nbits w 1) (tableByte nbits w 2) (tableByte nbits w 3)).toNat)).map
      (tableByte nbits w)
  | some .readn => (List.range 7).map (tableByte nbits w)
  | some .bare => [first]
  | none => [first]

/-- The instruction the decoder reads from a word of spec/opcode_table.json, under the table's opcode bytes (R63). -/
def decodeTableWord (nbits w : Nat) : Option Instr :=
  match decodeFrame OpcodeMap.default (tableBytes nbits w) with
  | .ok (i, _) => some i
  | .error _ => none

end Sys2Proof
end

