-- ==== Sys2Proof/Machine/State.lean ====
section
/-! DEFINITION. The machine's state, as plain data: the device, the link, the host, the chip agent and the outside world
(10_state.md). -/
namespace Sys2Proof.Machine

/-! ## Device -/

/-- `dev_state` (R17). Its encodings 0 to 3 are `devStateCode`. -/
inductive DevState where
  | idle
  | rxHdr
  | rxData
  | busy
  deriving DecidableEq, Repr

/-- The mode of a staged item (R19). -/
inductive Mode where
  /-- From OPBUF_WRITEN data; performed by the polled write (R88). -/
  | polled
  /-- From an SDP sequence; performed by the fast write (R87). -/
  | fast
  deriving DecidableEq, Repr

/-- An item of the opbuf (R19). -/
structure Item where
  addr : Addr
  value : Byte
  mode : Mode
  deriving DecidableEq, Repr

/-- The bus-interface state (R27). The booleans mean "asserted". -/
structure Bus where
  addr : Addr
  dout : Byte
  drive : Bool
  oe : Bool
  we : Bool
  ce : Bool
  deriving DecidableEq, Repr

/-- The device: R17 (`dev_state`), R18 (receiver progress), R19 (`opbuf`), R23 (`errcnt`), R27 (bus), R28 (polling
controller). The read-only elements of R24 and R25 are hardwired to the configuration and are read from it. -/
structure Device where
  fsm : DevState
  rxOp : Byte
  rxHdr : List Byte
  rxLen : U24
  rxAddr : U24
  rxData : List Byte
  rxGot : U24
  opbuf : List Item
  errcnt : U32
  bus : Bus
  pollCnt : Nat
  execIdx : Nat
  deriving DecidableEq, Repr

/-- The device right after reset (R32, R161). The registers R32 leaves unspecified hold the values of log 2. -/
def Device.reset : Device where
  fsm := .idle
  rxOp := 0
  rxHdr := []
  rxLen := 0
  rxAddr := 0
  rxData := []
  rxGot := 0
  opbuf := []
  errcnt := 0
  bus := { addr := 0, dout := 0, drive := false, oe := false, we := false, ce := false }
  pollCnt := 0
  execIdx := 0

/-! ## Link -/

/-- The two byte streams of R30. `wire` holds the bytes the sending side has handed to the transport and that have not
reached the device; `h2d` those at the device, not taken yet; `d2h` those the device has sent and the host has not
taken (log 7). -/
structure Link where
  wire : List Byte
  h2d : List Byte
  d2h : List Byte
  deriving DecidableEq, Repr

/-! ## Host -/

/-- `sess` (R29). -/
inductive Sess where
  | closed
  | opened
  | aborted
  deriving DecidableEq, Repr

/-- What a caller asks of the host: the pseudo-commands of 30_encoding.md R77, and `Close` (R126). -/
inductive Call where
  /-- `H_SESSION`: `Open()` and its handshake (R116, R120). -/
  | session
  /-- `Close()` (R126). -/
  | close
  /-- `Read(a, n)` (R129). -/
  | read (a : Addr) (n : Nat)
  /-- `Write(a, d, k)` (R131); `none` takes the default `k = w_chunk` (R130). -/
  | write (a : Addr) (d : List Byte) (k : Option Nat)
  /-- `Verify(a, d)` (R134). -/
  | verify (a : Addr) (d : List Byte)
  /-- `Erase(a, n)` (R135). -/
  | erase (a : Addr) (n : Nat)
  /-- `SetLock()` (R136). -/
  | setLock
  /-- `ClearLock()` (R137). -/
  | clearLock
  deriving DecidableEq, Repr

/-- A write in progress (R131): its operands, `nak0`, and whether it is the first half of an `Erase` (R135). -/
structure WriteJob where
  addr : Addr
  data : List Byte
  nak0 : Nat
  erase : Bool
  deriving DecidableEq, Repr

/-- The point a workflow has reached: one constructor per `Transact` of 42_host_session.md and
43_host_orchestrator.md. -/
inductive Phase where
  /-- Handshake, first request: QUERY_NAME (R120). -/
  | hsName
  /-- Handshake, second request: QUERY_OPBUF_SIZE (R120). -/
  | hsOpbufSize
  /-- Handshake, third request: QUERY_SERBUF_SIZE (R120). -/
  | hsSerbufSize
  /-- Handshake, last request: ERRORCNT_RESET (R120). -/
  | hsErrcntReset
  /-- `Read`'s READ_N (R129). -/
  | read (a : Addr) (n : U24)
  /-- `Verify`'s READ_N (R134). -/
  | verify (a : Addr) (d : List Byte)
  /-- `Write`: OPBUF_WRITEN of the chunk at `w_off` (R131). -/
  | writeStage (j : WriteJob)
  /-- `Write`: OPBUF_EXEC of that chunk (R131). -/
  | writeExec (j : WriteJob)
  /-- `Write`: the trailing OPBUF_EXEC, never reached (R131, R139). -/
  | writeTrail (j : WriteJob)
  /-- `Write`: ERRORCNT_QUERY (R131). -/
  | writeCount (j : WriteJob)
  /-- `Erase`: the blank check's READ_N, with the results of its write (R135). -/
  | eraseCheck (a : Addr) (n : U24) (errcnt : U32) (nakSeen : Bool)
  /-- `SetLock` (`set`) or `ClearLock`: the staging request (R136, R137). -/
  | lockStage (set : Bool) (nak0 : Nat)
  /-- `SetLock` or `ClearLock`: OPBUF_EXEC (R136, R137). -/
  | lockExec (nak0 : Nat)
  deriving DecidableEq, Repr

/-- The parameter a `HostParamError` names (R129, R130, R141). -/
inductive Param where
  | len
  | chunk
  deriving DecidableEq, Repr

/-- What a workflow returns to its caller. -/
inductive Result where
  /-- The handshake is complete (R120). That it has a result, and one without a `nak_seen`, is the model's choice (DESIGN CHOICE,
  log 29). -/
  | session
  /-- `Close` (R126). -/
  | closed
  /-- `Read` (R129). -/
  | read (data : List Byte) (nakSeen : Bool)
  /-- `Write` (R131). -/
  | write (errcnt : U32) (nakSeen : Bool)
  /-- `Verify` (R134); `pass = false` is `VerificationMismatch` (R146). -/
  | verify (pass : Bool) (nakSeen : Bool)
  /-- `Erase` (R135); `blank = false` is `VerificationMismatch` (R146). -/
  | erase (errcnt : U32) (blank : Bool) (nakSeen : Bool)
  /-- `SetLock`, `ClearLock` (R136, R137). -/
  | lock (nakSeen : Bool)
  /-- `HostParamError`: the workflow ended before anything was sent (R148). -/
  | paramError (p : Param)
  deriving DecidableEq, Repr

/-- An entry of the host's log, with the value R141 records. -/
inductive LogEntry where
  /-- A status byte other than `P_ACK`: the opcode sent and the byte received (R121). -/
  | status (opcode : Byte) (st : Byte)
  /-- `TransportError`: the opcode of the failed request (none where opening failed), and the bytes received. -/
  | transport (opcode : Option Byte) (received : Nat)
  /-- `ProtocolError` under `Fatal`: the opcode sent and the status byte received. -/
  | protocol (opcode : Byte) (st : Byte)
  /-- A second fatal error while the handler ran: releasing the transport failed (R153). -/
  | releaseFailed
  deriving DecidableEq, Repr

/-- The host: R29 (session state), R31 (orchestrator working state), and the program that runs on it (log 12). -/
structure HostSide where
  sess : Sess
  name : List Byte
  opbufCap : U16
  serbufCap : U16
  nakCount : Nat
  wOff : Nat
  wStaged : Nat
  wChunk : Nat
  /-- A host program runs. -/
  running : Bool
  /-- What the program has still to call, in order. -/
  calls : List Call
  /-- The workflow in progress. -/
  phase : Option Phase
  /-- The request of `phase` is outstanding (R117). -/
  sent : Bool
  /-- The results returned to the caller, oldest first. -/
  results : List Result
  /-- The host's log, oldest first (R121, R151). -/
  log : List LogEntry
  /-- The exit status of the last program that ended (R151). -/
  exit : Option Nat
  deriving DecidableEq, Repr

/-- The host's start state (R33), with no program running. What R33 leaves unspecified holds the values of log 2. -/
def HostSide.reset : HostSide where
  sess := .closed
  name := List.replicate 16 0
  opbufCap := 0
  serbufCap := 0
  nakCount := 0
  wOff := 0
  wStaged := 0
  wChunk := 0
  running := false
  calls := []
  phase := none
  sent := false
  results := []
  log := []
  exit := none

/-! ## Chip -/

/-- The cells of the reference chip: (address, byte) pairs in the canonical form `Memory.wf`. -/
abbrev Memory := List Host.Cell

/-- The reference chip RC of 95_test_vectors.md section 1: a fixture, not part of the block (log 5). -/
structure RefChip where
  /-- `M`: the cell contents. -/
  mem : Memory
  /-- The SDP lock. -/
  locked : Bool
  /-- A write cycle in progress: the value and the busy samples left. -/
  busy : Option (Byte × Nat)
  /-- The write cycles so far that match a beginning of an SDP sequence, oldest first. -/
  held : List (Addr × Byte)
  /-- `S`: the never-settling addresses. -/
  never : List Addr
  /-- `last`: the last value written at each never-settling address, sorted by address. -/
  last : List Host.Cell
  /-- `B`: the busy samples after each programmed write. -/
  busyLen : Nat
  deriving DecidableEq, Repr

/-- The agent that answers the bus (R44). -/
inductive Chip where
  /-- The external chip: it gives the prescribed answers first, then the free value `Config.chipAnswer` (log 3). -/
  | agent (answers : List Byte)
  /-- The reference chip (log 5). -/
  | reference (rc : RefChip)
  deriving DecidableEq, Repr

/-! ## The outside world -/

/-- What arrives from outside the machine (log 12). -/
inductive Input where
  /-- A platform reset of the controller (R161, R162). -/
  | deviceReset
  /-- A host program starts, to make these calls (R163). -/
  | startHost (calls : List Call)
  /-- The host program crashes (R165). -/
  | hostCrash
  /-- A byte from a sender that is not the conforming host (R165, R166). -/
  | rawByte (b : Byte)
  deriving DecidableEq, Repr

/-- The environment: pending inputs, oldest first, and the choices of the run: those prescribed (`script`) are taken first,
then the free value `Config.freeChoice` applied to the counter `draws` (log 6). -/
structure Env where
  inputs : List Input
  script : List Nat
  draws : Nat
  deriving DecidableEq, Repr

/-! ## The machine -/

/-- The agents that make a step. The chip moves only inside a bus cycle of the device. -/
inductive Agent where
  | device
  | link
  | host
  /-- The host's response timer (R119, R156). -/
  | timer
  | outside
  deriving DecidableEq, Repr

/-- The whole machine. -/
structure State where
  /-- The configuration (R7). -/
  cfg : Config
  dev : Device
  link : Link
  host : HostSide
  chip : Chip
  /-- The bus cycles so far, newest first (R44; log 4). -/
  busLog : List BusCycle
  env : Env
  deriving DecidableEq, Repr

/-- The machine right after reset under a configuration (R32, R33). Of the streams R32 names only the bytes at the device; that
`wire` and `d2h` start empty too is the model's choice (DESIGN CHOICE, log 24). -/
def State.resetWith (c : Config) : State where
  cfg := c
  dev := Device.reset
  link := { wire := [], h2d := [], d2h := [] }
  host := HostSide.reset
  chip := .agent []
  busLog := []
  env := { inputs := [], script := [], draws := 0 }

/-- The machine right after reset, under the default configuration. -/
def State.reset : State := State.resetWith Config.default

/-- The error classes of R141. -/
inductive ErrorClass where
  | transportError
  | protocolError
  | programmingError
  | verificationMismatch
  | hostParamError
  | configRefused
  deriving DecidableEq, Repr

/-- Why the device rejects a request (R145). The wire carries no cause (R147). -/
inductive NakCause where
  /-- `NAK_UNKNOWN`: an unassigned opcode. -/
  | unknown
  /-- `NAK_FRAME`: OPBUF_WRITEN with `len > serbuf_cap`. -/
  | frame
  /-- `NAK_OVERFLOW`: a staging command that would pass `opbuf_cap`. -/
  | overflow
  deriving DecidableEq, Repr

/-- The opbuf state the source names (R21). -/
inductive OpbufState where
  | empty
  | staged
  deriving DecidableEq, Repr

/-- Why the machine stops. -/
inductive Fault where
  /-- Raised by the host's step: a workflow would call `Transact` while `sess` is not OPEN, which R118 requires
  (`require sess = OPEN`) and R117 forbids. Safe: the machine stops where the spec gives no effect (log 13). -/
  | transactNotOpen
  deriving DecidableEq, Repr

/-- Why the machine gives a step no meaning. -/
inductive Refusal where
  /-- Raised by an arm of `exec` whose instruction has no meaning yet. Safe. -/
  | notModelled (mnemonic : String)
  /-- Raised by `step`: the configuration breaks a constraint of R8, and "a model must not run it" (`ConfigRefused`,
  R141). Safe: it is the spec's own refusal. -/
  | configRefused (c : Constraint)
  deriving DecidableEq, Repr

end Sys2Proof.Machine
end

