-- ==== Sys2Proof/Machine/Flags.lean ====
section
/-! DEFINITION. Status and flag computations. The block has no condition codes (R22): its only status is the status byte of
a response, computed anew for each; beside it stand the derived opbuf state (R21), the counter's saturating increment (R9,
R23), the NAK causes (R145), the numeric codes (R17, R141) and the check of R8. -/
namespace Sys2Proof.Machine

/-- The status byte: `P_ACK` for acceptance, `P_NAK` for rejection (R70). -/
def statusByte (c : Config) (accepted : Bool) : Byte :=
  if accepted then c.ack else c.nak

/-- `sat_inc32` (R9): the error counter saturates, so that it stays monotonic (R23). -/
def satInc32 (n : U32) : U32 :=
  if n = 0xFFFFFFFF then n else n + 1

/-- The completion test of data polling: bit 7 of the sample equals bit 7 of the written value (R88, C1). -/
def pollDone (sample value : Byte) : Bool :=
  sample.getLsbD 7 == value.getLsbD 7

/-- `opbuf_state` (R21): derived, not stored. -/
def opbufState (s : State) : OpbufState :=
  if s.dev.opbuf.length = 0 then .empty else .staged

/-- Why OPBUF_WRITEN of `len` bytes is refused, if it is (R101, R145): a frame over `serbuf_cap`, or an overflow of the
opbuf. Where both hold there is still one NAK (R149). -/
def writenRefusal (s : State) (len : U24) : Option NakCause :=
  if len.toNat > s.cfg.serbufCap.toNat then some .frame
  else if s.dev.opbuf.length + len.toNat > s.cfg.opbufCap.toNat then some .overflow
  else none

/-- Why staging an SDP sequence is refused, if it is (R102, R103, R145). -/
def sdpRefusal (s : State) (seq : List (Addr × Byte)) : Option NakCause :=
  if s.dev.opbuf.length + seq.length > s.cfg.opbufCap.toNat then some .overflow else none

/-- The encoding of `dev_state` (R17). -/
def devStateCode : DevState → Nat
  | .idle => 0
  | .rxHdr => 1
  | .rxData => 2
  | .busy => 3

/-- The numeric code of an error class (R141), used as the host's exit status (R151). -/
def errorCode : ErrorClass → Nat
  | .transportError => 1
  | .protocolError => 2
  | .programmingError => 3
  | .verificationMismatch => 4
  | .hostParamError => 5
  | .configRefused => 6

/-- The constraint of R8 that a configuration breaks, if it breaks one, which `ConfigRefused` records (R141). Where it breaks
several, the spec does not say which one is recorded; that it is the first in R8's order is the model's choice (DESIGN CHOICE,
log 26). -/
def configViolation (c : Config) : Option Constraint :=
  if c.pollLimit < 1 then some .pollLimit
  else if c.chunkConst < 1 then some .chunkConst
  else if 16 < c.boardName.length then some .boardName
  else if c.ack = c.nak then some .ackNak
  else if ¬ (allOpcodes.map (opcodeByte c.opcodes)).Nodup then some .opcodes
  else none

end Sys2Proof.Machine
end

