-- ==== Sys2Proof/Machine/Operands.lean ====
section
/-! DEFINITION. Operand forms: element addresses, staged items and the payload bytes of responses (R9, R48, R64, R69, R101,
R102). -/
namespace Sys2Proof.Machine

/-- The address of element `i` of a multi-byte access: `wrap24(addr + i)` (R48). -/
def elemAddr (addr : Addr) (i : Nat) : Addr :=
  addr + BitVec.ofNat 24 i

/-- The items that the data bytes `i`, `i + 1`, … of an OPBUF_WRITEN to `addr` stage, in order (R101). -/
def writeItemsFrom (addr : Addr) : Nat → List Byte → List Item
  | _, [] => []
  | i, b :: bs => { addr := elemAddr addr i, value := b, mode := .polled } :: writeItemsFrom addr (i + 1) bs

/-- The items an OPBUF_WRITEN stages: one per data byte, at ascending addresses (R45, R101, C4). -/
def writeItems (addr : Addr) (data : List Byte) : List Item :=
  writeItemsFrom addr 0 data

/-- The items an SDP sequence stages: one `Fast` item per step, in the sequence's order (R91, R102). -/
def sdpItems (seq : List (Addr × Byte)) : List Item :=
  seq.map fun p => { addr := p.1, value := p.2, mode := .fast }

/-- `le16` (R9): the payload of the capacity queries (R98, R99). -/
def le16 (v : U16) : List Byte :=
  [v.extractLsb' 0 8, v.extractLsb' 8 8]

/-- `le32` (R9): the payload of ERRORCNT_QUERY (R112). -/
def le32 (v : U32) : List Byte :=
  [v.extractLsb' 0 8, v.extractLsb' 8 8, v.extractLsb' 16 8, v.extractLsb' 24 8]

/-- `board_name` (R25, R69): 16 bytes, the name and zero bytes after it. -/
def boardName (c : Config) : List Byte :=
  (List.range 16).map fun i => c.boardName.getD i 0

/-- The host's reading of a 2-byte capacity (R120): `oc[0] | (oc[1] << 8)`. -/
def readLe16 (bs : List Byte) : U16 :=
  (bs.getD 0 0).setWidth 16 ||| ((bs.getD 1 0).setWidth 16 <<< 8)

/-- The host's reading of the 4-byte counter (R131). -/
def readLe32 (bs : List Byte) : U32 :=
  (bs.getD 0 0).setWidth 32 ||| ((bs.getD 1 0).setWidth 32 <<< 8) ||| ((bs.getD 2 0).setWidth 32 <<< 16)
    ||| ((bs.getD 3 0).setWidth 32 <<< 24)

/-- The board name for display: `h_name` up to its first zero byte, or all 16 bytes (R69, R120). -/
def displayName (name : List Byte) : List Byte :=
  name.takeWhile fun b => b != 0

end Sys2Proof.Machine
end

