-- ==== Sys2Proof/Machine/Ops.lean ====
section
/-! DEFINITION. The named operations over the machine's state: free choices, the response and its NAK, the opbuf, the error
counter, the reference chip's cells, and the host's one error handler, which is what the block has in place of taking an
exception (60_exceptions.md section 4). -/
namespace Sys2Proof.Machine

/-! ## Free choices (log 6) -/

/-- One choice the spec leaves open: the next prescribed one if there is one, else the free value. -/
def draw (s : State) : Nat × State :=
  match s.env.script with
  | c :: rest => (c, { s with env := { s.env with script := rest } })
  | [] => (Config.freeChoice s.env.draws, { s with env := { s.env with draws := s.env.draws + 1 } })

/-- A free choice among `n` values (`n` positive). -/
def drawBelow (n : Nat) (s : State) : Nat × State :=
  ((draw s).1 % n, (draw s).2)

/-- A free yes or no. -/
def drawBool (s : State) : Bool × State :=
  ((draw s).1 % 2 == 1, (draw s).2)

/-! ## The device's response (R61, R96) -/

/-- `send` of each byte in order (R11): appended to the device-to-host stream. -/
def send (bs : List Byte) (s : State) : State :=
  { s with link := { s.link with d2h := s.link.d2h ++ bs } }

/-- `dev_state <- IDLE`, which ends every command (R96). -/
def toIdle (s : State) : State :=
  { s with dev := { s.dev with fsm := .idle } }

/-- A whole response: the status byte, then the payload, and back to IDLE (R61, R96). -/
def respond (accepted : Bool) (payload : List Byte) (s : State) : State :=
  toIdle (send (statusByte s.cfg accepted :: payload) s)

/-- The device's rejection of a request, whatever its cause: `[P_NAK]`, no other state (R145, R147, R152). -/
def rejectRequest (_cause : NakCause) (s : State) : State :=
  respond false [] s

/-! ## The opbuf and the error counter -/

/-- Appends items to the opbuf. -/
def stage (items : List Item) (s : State) : State :=
  { s with dev := { s.dev with opbuf := s.dev.opbuf ++ items } }

/-- `opbuf <- []`. -/
def clearOpbuf (s : State) : State :=
  { s with dev := { s.dev with opbuf := [] } }

/-- Staging is all or nothing (R101, R102): refused with its cause, or every item appended; then the response. -/
def stageOrReject (refusal : Option NakCause) (items : List Item) (s : State) : State :=
  match refusal with
  | some cause => rejectRequest cause s
  | none => respond true [] (stage items s)

/-- `errcnt <- v`. -/
def setErrcnt (v : U32) (s : State) : State :=
  { s with dev := { s.dev with errcnt := v } }

/-- One poll failure, `ProgrammingError` (R88, R144): the counter is all it leaves. -/
def countPollFailure (s : State) : State :=
  setErrcnt (satInc32 s.dev.errcnt) s

/-! ## The reference chip's cells -/

/-- What an unlisted cell reads as: an erased cell of the test programs (95_test_vectors.md section 4: "M all FF";
DESIGN CHOICE, log 5). -/
def unlistedByte : Byte := 0xFF

/-- Reads one cell. -/
def Memory.read : Memory → Nat → Byte
  | [], _ => unlistedByte
  | (k, v) :: rest, a => if k = a then v else Memory.read rest a

/-- Puts a pair into a list sorted by address, in place of the one at that address. -/
def cellsSet : List Host.Cell → Nat → Byte → List Host.Cell
  | [], a, v => [(a, v)]
  | (k, w) :: rest, a, v =>
    if a < k then (a, v) :: (k, w) :: rest
    else if a = k then (a, v) :: rest
    else (k, w) :: cellsSet rest a v

/-- Writes one cell, keeping the canonical form: the unlisted value removes the entry. -/
def Memory.write (m : Memory) (a : Nat) (v : Byte) : Memory :=
  if v = unlistedByte then m.filter fun c => c.1 != a else cellsSet m a v

/-- The canonical form: addresses strictly rising and below 2^24, and no entry equal to what an unlisted cell reads as. -/
abbrev Memory.wf (m : Memory) : Prop :=
  m.Pairwise (fun x y => x.1 < y.1) ∧ ∀ c ∈ m, c.2 ≠ unlistedByte ∧ c.1 < 2 ^ 24

/-- The cells of the chip agent, where the model holds them: those of the reference chip. The external chip's cells are no
state of the machine (R35, R44). -/
def chipMemory (s : State) : Memory :=
  match s.chip with
  | .agent _ => []
  | .reference rc => rc.mem

/-! ## The host's error handler (R151, R153) -/

/-- Taking a fatal host error: the block's one trap entry (R151). It logs the class's recorded value, aborts the session,
releases the transport and ends the host program with the class's code as its exit status; the workflow in progress
and the remaining calls end with the program. Releasing the transport may fail, a second fatal error: it is logged, and
the status stays the first error's (R153). No device state changes (R142). There is no return from it (R153). -/
def hostFatal (cls : ErrorClass) (entry : LogEntry) (s : State) : State :=
  let d := drawBool s
  { d.2 with
    host :=
      { d.2.host with
        log := d.2.host.log ++ (if d.1 then [entry, .releaseFailed] else [entry])
        sess := .aborted
        running := false
        calls := []
        phase := none
        sent := false
        exit := some (errorCode cls) } }

/-- The other way a host program ends: with status 0, when it has made its calls (R151). -/
def hostExit (s : State) : State :=
  { s with host := { s.host with running := false, exit := some 0 } }

/-- A workflow returns its result to the caller (R141: results are not raised). R31 and R33 keep `w_off`, `w_staged` and
`w_chunk` for one workflow; that they hold their last values after it, and through workflows that do not write, until the next
write sets them, is the model's choice (DESIGN CHOICE, log 2). -/
def hostReturn (r : Result) (s : State) : State :=
  { s with host := { s.host with results := s.host.results ++ [r], phase := none, sent := false } }

/-- `raise HostParamError(p)`: the workflow ends before anything is sent, and the session stays as it is (R148). -/
def hostParamError (p : Param) (s : State) : State :=
  hostReturn (.paramError p) s

/-- Goes to the next `Transact` of a workflow. -/
def hostGoto (p : Phase) (s : State) : State :=
  { s with host := { s.host with phase := some p, sent := false } }

end Sys2Proof.Machine
end

