-- ==== Sys2Proof/Machine/Chip.lean ====
section
/-! DEFINITION. The chip agent's side of a bus cycle: the external chip, whose answers are free (20_memory.md R44), and the
reference chip RC of 95_test_vectors.md section 1 (log 3, log 5). -/
namespace Sys2Proof.Machine

/-- RC programs an ordinary write (95_test_vectors.md section 1, step 3). -/
def refProgram (rc : RefChip) (a : Addr) (v : Byte) : RefChip :=
  if rc.locked then rc
  else if a ∈ rc.never then { rc with last := cellsSet rc.last a.toNat v }
  else
    { rc with
      mem := Memory.write rc.mem a.toNat v
      busy := if rc.busyLen > 0 then some (v, rc.busyLen) else none }

/-- Some proper beginning of `seq` is `xs`. -/
def properBeginning (xs seq : List (Addr × Byte)) : Bool :=
  xs.isPrefixOf seq && xs.length < seq.length

/-- RC on a write cycle (95_test_vectors.md section 1, steps 1 and 2). -/
def refWrite (c : Config) (rc : RefChip) (a : Addr) (v : Byte) : RefChip :=
  if rc.busy.isSome then rc
  else
    let held := rc.held ++ [(a, v)]
    if held = c.sdpSet then { rc with locked := true, held := [] }
    else if held = c.sdpClear then { rc with locked := false, held := [] }
    else if properBeginning held c.sdpSet || properBeginning held c.sdpClear then { rc with held := held }
    else refProgram { rc with held := [] } a v

/-- RC on a read (95_test_vectors.md section 1). The value at a never-settling address that nothing has written is not
stated: it is the free value of the external chip (log 5). -/
def refRead (log : List BusCycle) (rc : RefChip) (a : Addr) : Byte × RefChip :=
  match rc.busy with
  | some (v, r + 1) => (~~~v &&& 0x80, { rc with busy := if r = 0 then none else some (v, r) })
  | _ =>
    if a ∈ rc.never then
      match rc.last.find? fun c => c.1 == a.toNat with
      | some c => (~~~c.2, rc)
      | none => (Config.chipAnswer log a, rc)
    else (Memory.read rc.mem a.toNat, rc)

/-- The chip agent answers a read at `a` (R44): `MemRead(a, 1)`. -/
def chipRead (log : List BusCycle) (a : Addr) : Chip → Byte × Chip
  | .agent (b :: rest) => (b, .agent rest)
  | .agent [] => (Config.chipAnswer log a, .agent [])
  | .reference rc => ((refRead log rc a).1, .reference (refRead log rc a).2)

/-- The chip agent takes a write cycle: `MemWrite(a, 1, v)`. What the external chip makes of it shows only in its later
answers, which may depend on every cycle before them. -/
def chipWrite (c : Config) (a : Addr) (v : Byte) : Chip → Chip
  | .agent answers => .agent answers
  | .reference rc => .reference (refWrite c rc a v)

/-- A write cycle cut off by a reset leaves any value in the cell (R162, I12): `left` is that value. -/
def chipCutWrite (a : Addr) (left : Byte) : Chip → Chip
  | .agent answers => .agent answers
  | .reference rc => .reference { rc with mem := Memory.write rc.mem a.toNat left }

end Sys2Proof.Machine
end

