-- ==== Sys2Proof/Machine/Driver.lean ====
section
/-! DEFINITION. The Memory Driver and the polling write controller (40_memory_driver.md). -/
namespace Sys2Proof.Machine

/-! ## Bus primitives (R85) -/

/-- `SetAddress(a)`. -/
def setAddress (a : Addr) (s : State) : State :=
  { s with dev := { s.dev with bus := { s.dev.bus with addr := a } } }

/-- `WriteDataBus(v)`. -/
def writeDataBus (v : Byte) (s : State) : State :=
  { s with dev := { s.dev with bus := { s.dev.bus with dout := v, drive := true } } }

/-- `ReleaseDataBus()`. -/
def releaseDataBus (s : State) : State :=
  { s with dev := { s.dev with bus := { s.dev.bus with drive := false } } }

/-- `SetOutputEnable(b)`. -/
def setOutputEnable (b : Bool) (s : State) : State :=
  { s with dev := { s.dev with bus := { s.dev.bus with oe := b } } }

/-- `SetChipEnable(b)`. -/
def setChipEnable (b : Bool) (s : State) : State :=
  { s with dev := { s.dev with bus := { s.dev.bus with ce := b } } }

/-- `bus_we <- b`: the two edges of `PulseWriteEnable`. -/
def setWriteEnable (b : Bool) (s : State) : State :=
  { s with dev := { s.dev with bus := { s.dev.bus with we := b } } }

/-- Puts a cycle on the record of bus cycles, with the signals asserted during it. -/
def logCycle (kind : CycleKind) (data : Byte) (s : State) : State :=
  { s with
    busLog :=
      { kind := kind, addr := s.dev.bus.addr, data := data, oe := s.dev.bus.oe, ce := s.dev.bus.ce,
        drive := s.dev.bus.drive } :: s.busLog }

/-- `ReadDataBus()`: the byte the chip agent drives, a draw (R44). R85 calls it legal only with `bus_drive` false and
`bus_oe` true, which every caller sees to; the record of bus cycles keeps both signals. -/
def readDataBus (s : State) : Byte × State :=
  let answer := chipRead s.busLog s.dev.bus.addr s.chip
  (answer.1, logCycle .read answer.1 { s with chip := answer.2 })

/-- `PulseWriteEnable()`: one chip write cycle of `bus_dout` at `bus_addr`, `bus_we` true during it. -/
def pulseWriteEnable (s : State) : State :=
  let s := setWriteEnable true s
  let s := logCycle .write s.dev.bus.dout { s with chip := chipWrite s.cfg s.dev.bus.addr s.dev.bus.dout s.chip }
  setWriteEnable false s

/-! ## Driver operations -/

/-- `DrvRead(a)` (R83). -/
def drvRead (a : Addr) (s : State) : Byte × State :=
  let s := setChipEnable true s
  let s := releaseDataBus s
  let s := setOutputEnable true s
  let s := setAddress a s
  let r := readDataBus s
  let s := setOutputEnable false r.2
  (r.1, setChipEnable false s)

/-- `WriteCycle(a, v)` (R86). -/
def writeCycle (a : Addr) (v : Byte) (s : State) : State :=
  let s := setOutputEnable false s
  let s := writeDataBus v s
  let s := setAddress a s
  let s := pulseWriteEnable s
  releaseDataBus s

/-- `DrvFastWrite(a, v)` (R87): one write cycle, no polling, no wait. -/
def drvFastWrite (a : Addr) (v : Byte) (s : State) : State :=
  setChipEnable false (writeCycle a v (setChipEnable true s))

/-- `poll_cnt <- n` (R28). -/
def setPollCnt (n : Nat) (s : State) : State :=
  { s with dev := { s.dev with pollCnt := n } }

/-- One polling sample (R88): a read of the cell just written, and `poll_cnt + 1`. -/
def pollSample (s : State) : Byte × State :=
  let r := readDataBus (setOutputEnable true s)
  let t := setOutputEnable false r.2
  (r.1, setPollCnt (t.dev.pollCnt + 1) t)

/-- The polling loop (R88), with the samples left in the budget: a match completes the write, and an exhausted budget is
one poll failure; the write is abandoned either way without a word to the caller (R92). -/
def pollLoop (v : Byte) : Nat → State → State
  | 0, s => setChipEnable false (countPollFailure s)
  | left + 1, s =>
    if pollDone (pollSample s).1 v then setChipEnable false (pollSample s).2
    else pollLoop v left (pollSample s).2

/-- `DrvPolledWrite(a, v)` (R88): one write cycle, then polling within `P_POLL_LIMIT` samples. -/
def drvPolledWrite (a : Addr) (v : Byte) (s : State) : State :=
  let s := setChipEnable true s
  let s := writeCycle a v s
  pollLoop v s.cfg.pollLimit (setPollCnt 0 s)

/-- Performs one staged item (R19, R104). -/
def performItem (it : Item) (s : State) : State :=
  match it.mode with
  | .polled => drvPolledWrite it.addr it.value s
  | .fast => drvFastWrite it.addr it.value s

/-- `exec_idx <- i` (R28). -/
def setExecIdx (i : Nat) (s : State) : State :=
  { s with dev := { s.dev with execIdx := i } }

/-- The drain loop of OPBUF_EXEC (R104): the items in staging order, `exec_idx` counting from `i`. A poll failure stops
nothing (R92). -/
def drainFrom : Nat → List Item → State → State
  | _, [], s => s
  | i, it :: rest, s => drainFrom (i + 1) rest (performItem it (setExecIdx i s))

/-- The read loop of READ_N (R105): elements `i`, `i + 1`, … of `left` elements, ascending, each sent as it is read. -/
def readLoop (addr : Addr) : Nat → Nat → State → State
  | _, 0, s => s
  | i, left + 1, s =>
    readLoop addr (i + 1) left (send [(drvRead (elemAddr addr i) s).1] (drvRead (elemAddr addr i) s).2)

end Sys2Proof.Machine
end

