-- ==== Sys2Proof/Machine/Commit.lean ====
section
/-! DEFINITION. OPBUF_EXEC (41_engine_commands.md R104). -/
namespace Sys2Proof.Machine

/-- OPBUF_EXEC (R104): every staged item through the driver, in staging order; then the opbuf is empty, and only then the
ACK. Always ACK, whatever the number of poll failures. -/
def execOpbufExec (s : State) : Host.Outcome State Fault Refusal :=
  .next (respond true [] (clearOpbuf (drainFrom 0 s.dev.opbuf s)))

end Sys2Proof.Machine
end

