-- ==== Sys2Proof/Machine/Counter.lean ====
section
/-! DEFINITION. The error-counter commands: ERRORCNT_QUERY and ERRORCNT_RESET (41_engine_commands.md R112, R113). -/
namespace Sys2Proof.Machine

/-- ERRORCNT_QUERY (R112): reading does not clear the counter. -/
def execErrorcntQuery (s : State) : Host.Outcome State Fault Refusal :=
  .next (respond true (le32 s.dev.errcnt) s)

/-- ERRORCNT_RESET (R113). -/
def execErrorcntReset (s : State) : Host.Outcome State Fault Refusal :=
  .next (respond true [] (setErrcnt 0 s))

end Sys2Proof.Machine
end

