-- ==== Sys2Proof/Machine/Query.lean ====
section
/-! DEFINITION. The query commands: QUERY_NAME, QUERY_OPBUF_SIZE, QUERY_SERBUF_SIZE (41_engine_commands.md R97 to R99). -/
namespace Sys2Proof.Machine

/-- QUERY_NAME (R97): always ACK, with the 16 bytes of `board_name`. -/
def execQueryName (s : State) : Host.Outcome State Fault Refusal :=
  .next (respond true (boardName s.cfg) s)

/-- QUERY_OPBUF_SIZE (R98): always ACK, with the total capacity. -/
def execQueryOpbufSize (s : State) : Host.Outcome State Fault Refusal :=
  .next (respond true (le16 s.cfg.opbufCap) s)

/-- QUERY_SERBUF_SIZE (R99): always ACK, with the largest frame payload. -/
def execQuerySerbufSize (s : State) : Host.Outcome State Fault Refusal :=
  .next (respond true (le16 s.cfg.serbufCap) s)

end Sys2Proof.Machine
end

