-- ==== Sys2Proof/Machine/Read.lean ====
section
/-! DEFINITION. READ_N (41_engine_commands.md R105). -/
namespace Sys2Proof.Machine

/-- READ_N (R105): ACK, then `len` cells at ascending wrapped addresses, each a fresh read of the chip (R52, R58). -/
def execReadN (addr : Addr) (len : U24) (s : State) : Host.Outcome State Fault Refusal :=
  .next (toIdle (readLoop addr 0 len.toNat (send [statusByte s.cfg true] s)))

end Sys2Proof.Machine
end

