-- ==== Sys2Proof/Machine/Staging.lean ====
section
/-! DEFINITION. The commands that only touch the opbuf: OPBUF_INIT, OPBUF_WRITEN, OPBUF_SET_SDP, OPBUF_RESET_SDP
(41_engine_commands.md R100 to R103). None makes a bus cycle (R43). -/
namespace Sys2Proof.Machine

/-- OPBUF_INIT (R100): the staged items are discarded, not performed; the error counter stays. -/
def execOpbufInit (s : State) : Host.Outcome State Fault Refusal :=
  .next (respond true [] (clearOpbuf s))

/-- OPBUF_WRITEN (R101): all `len` items, or none and a NAK. -/
def execOpbufWriten (len : U24) (addr : Addr) (data : List Byte) (s : State) : Host.Outcome State Fault Refusal :=
  .next (stageOrReject (writenRefusal s len) (writeItems addr (data.take len.toNat)) s)

/-- OPBUF_SET_SDP (R102): the lock sequence as `Fast` items, or none and a NAK. -/
def execOpbufSetSdp (s : State) : Host.Outcome State Fault Refusal :=
  .next (stageOrReject (sdpRefusal s s.cfg.sdpSet) (sdpItems s.cfg.sdpSet) s)

/-- OPBUF_RESET_SDP (R103): the unlock sequence as `Fast` items, or none and a NAK. -/
def execOpbufResetSdp (s : State) : Host.Outcome State Fault Refusal :=
  .next (stageOrReject (sdpRefusal s s.cfg.sdpClear) (sdpItems s.cfg.sdpClear) s)

end Sys2Proof.Machine
end

