-- ==== Sys2Proof/Machine/Dispatch.lean ====
section
/-! DEFINITION. The dispatch: one arm per instruction, each one direct call of its meaning. Executing a request is one
atomic step of the device (R12, R96). -/
namespace Sys2Proof.Machine

def exec (i : Instr) (s : State) : Host.Outcome State Fault Refusal :=
  match i with
  | .queryName => Sys2Proof.Machine.execQueryName s
  | .opbufInit => Sys2Proof.Machine.execOpbufInit s
  | .queryOpbufSize => Sys2Proof.Machine.execQueryOpbufSize s
  | .querySerbufSize => Sys2Proof.Machine.execQuerySerbufSize s
  | .opbufWriten len addr data => Sys2Proof.Machine.execOpbufWriten len addr data s
  | .opbufSetSdp => Sys2Proof.Machine.execOpbufSetSdp s
  | .opbufResetSdp => Sys2Proof.Machine.execOpbufResetSdp s
  | .opbufExec => Sys2Proof.Machine.execOpbufExec s
  | .readN addr len => Sys2Proof.Machine.execReadN addr len s
  | .errorcntQuery => Sys2Proof.Machine.execErrorcntQuery s
  | .errorcntReset => Sys2Proof.Machine.execErrorcntReset s

end Sys2Proof.Machine
end

