-- ==== Sys2Proof/Machine/Receiver.lean ====
section
/-! DEFINITION. The device's receiver (41_engine_commands.md R93 to R95) and the arrival of bytes at the device (10_state.md
R30, 70_reset_and_hazards.md R166). -/
namespace Sys2Proof.Machine

/-- `IDLE`: the byte is an opcode (R93). An unassigned byte is a complete request, as an `F_BARE` opcode is. -/
def receiveOpcode (b : Byte) (s : State) : State :=
  if b = s.cfg.opcodes.opbufWriten ∨ b = s.cfg.opcodes.readN then
    { s with dev := { s.dev with rxOp := b, rxHdr := [], fsm := .rxHdr } }
  else { s with dev := { s.dev with rxOp := b, fsm := .busy } }

/-- The header is complete: its six bytes are decoded by the opcode's format (R94, R65, R66). -/
def acceptHeader (b1 b2 b3 b4 b5 b6 : Byte) (s : State) : State :=
  if s.dev.rxOp = s.cfg.opcodes.opbufWriten then
    { s with
      dev :=
        { s.dev with
          rxHdr := [b1, b2, b3, b4, b5, b6]
          rxLen := unle24 b1 b2 b3
          rxAddr := unle24 b4 b5 b6
          rxData := []
          rxGot := 0
          fsm := if unle24 b1 b2 b3 = 0 then .busy else .rxData } }
  else
    { s with
      dev :=
        { s.dev with
          rxHdr := [b1, b2, b3, b4, b5, b6]
          rxAddr := unle24 b1 b2 b3
          rxLen := unle24 b4 b5 b6
          fsm := .busy } }

/-- `RX_HDR`: one more header byte; the sixth completes the header (R94). -/
def receiveHeader (b : Byte) (s : State) : State :=
  match s.dev.rxHdr ++ [b] with
  | [b1, b2, b3, b4, b5, b6] => acceptHeader b1 b2 b3 b4 b5 b6 s
  | hdr => { s with dev := { s.dev with rxHdr := hdr } }

/-- `RX_DATA`: one more data byte, kept only while fewer than `serbuf_cap` have come; the last one completes the frame
(R95). -/
def receiveData (b : Byte) (s : State) : State :=
  { s with
    dev :=
      { s.dev with
        rxData := if s.dev.rxGot.toNat < s.cfg.serbufCap.toNat then s.dev.rxData ++ [b] else s.dev.rxData
        rxGot := s.dev.rxGot + 1
        fsm := if s.dev.rxGot + 1 = s.dev.rxLen then .busy else .rxData } }

/-- The device takes one byte (R93 to R95). While BUSY it takes none (R96). -/
def receive (b : Byte) (s : State) : State :=
  match s.dev.fsm with
  | .idle => receiveOpcode b s
  | .rxHdr => receiveHeader b s
  | .rxData => receiveData b s
  | .busy => s

/-- The device takes bytes in order, as long as none of them finds it BUSY. -/
def receiveAll (bs : List Byte) (s : State) : State :=
  bs.foldl (fun t b => receive b t) s

/-- The complete request the device holds in BUSY (R96); `none` is an unassigned opcode (R106). -/
def request (s : State) : Option Instr :=
  requestOf s.cfg.opcodes s.dev.rxOp s.dev.rxLen s.dev.rxAddr s.dev.rxData

/-- A byte joins those waiting at the device. -/
def enqueue (b : Byte) (s : State) : State :=
  { s with link := { s.link with h2d := s.link.h2d ++ [b] } }

/-- A byte arrives at the device (R30). While the device is BUSY it meets `P_RX_WHILE_BUSY` (R166): it waits, is lost, or,
under `Either`, one or the other by a free choice. -/
def arrive (b : Byte) (s : State) : State :=
  match s.dev.fsm with
  | .busy =>
    match s.cfg.rxWhileBusy with
    | .buffered => enqueue b s
    | .dropped => s
    | .either => if (drawBool s).1 then enqueue b (drawBool s).2 else (drawBool s).2
  | .idle => enqueue b s
  | .rxHdr => enqueue b s
  | .rxData => enqueue b s

/-- The link carries the next byte to the device, in order. -/
def linkStep (s : State) : State :=
  match s.link.wire with
  | [] => s
  | b :: rest => arrive b { s with link := { s.link with wire := rest } }

end Sys2Proof.Machine
end

