-- ==== Sys2Proof/Machine/Device.lean ====
section
/-! DEFINITION. The device's own step (41_engine_commands.md R93 to R96, R106) and its reset (70_reset_and_hazards.md R161,
R162). -/
namespace Sys2Proof.Machine

/-- The unassigned opcode (R106, R72): `[P_NAK]`, and nothing else changes. -/
def rejectUnassigned (s : State) : State :=
  rejectRequest .unknown s

/-- Executes the complete request as one atomic step (R96, R12). -/
def executeRequest (s : State) : Host.Outcome State Fault Refusal :=
  match request s with
  | some i => exec i s
  | none => .next (rejectUnassigned s)

/-- Takes the next byte waiting at the device; with none it waits, in IDLE or, for ever if none comes, inside a partial
frame (R161, R165). -/
def takeByte (s : State) : State :=
  match s.link.h2d with
  | [] => s
  | b :: rest => receive b { s with link := { s.link with h2d := rest } }

/-- One step of the device. -/
def deviceStep (s : State) : Host.Outcome State Fault Refusal :=
  match s.dev.fsm with
  | .busy => executeRequest s
  | .idle => .next (takeByte s)
  | .rxHdr => .next (takeByte s)
  | .rxData => .next (takeByte s)

/-- The device can move: it is BUSY, or a byte waits for it. -/
def deviceReady (s : State) : Bool :=
  s.dev.fsm == .busy || !s.link.h2d.isEmpty

/-! ## Reset -/

/-- Device reset (R161): every device element at its reset value (R32), and no byte waiting at the device. The chip keeps
its contents; the host and what the device has already sent are untouched. -/
def deviceReset (s : State) : State :=
  { s with dev := Device.reset, link := { s.link with h2d := [] } }

/-- At most `left` polling samples of a polled write that a reset is about to cut. -/
def pollSome (v : Byte) : Nat → State → State
  | 0, s => s
  | left + 1, s =>
    if pollDone (pollSample s).1 v then (pollSample s).2 else pollSome v left (pollSample s).2

/-- What the item in progress leaves in its cell is the chip's choice, a free value (R162, R60). -/
def leaveCell (it : Item) (s : State) : State :=
  { (draw s).2 with chip := chipCutWrite it.addr (BitVec.ofNat 8 (draw s).1) (draw s).2.chip }

/-- The item in progress is cut in its write cycle (R162). -/
def cutInWrite (it : Item) (s : State) : State :=
  let t := setOutputEnable false (setChipEnable true s)
  let t := setAddress it.addr (writeDataBus it.value t)
  leaveCell it (logCycle .cutWrite it.value t)

/-- The item in progress is cut in its polling, after at most `n` samples (R162, R88). -/
def cutInPolling (it : Item) (n : Nat) (s : State) : State :=
  leaveCell it (pollSome it.value n (setPollCnt 0 (writeCycle it.addr it.value (setChipEnable true s))))

/-- The item in progress when a reset cuts OPBUF_EXEC (R162): it is cut in its write cycle, or, if it is polled, there or in
its polling, by a free choice. -/
def cutItem (it : Item) (s : State) : State :=
  match it.mode with
  | .fast => cutInWrite it s
  | .polled =>
    let n := drawBelow (s.cfg.pollLimit + 2) s
    match n.1 with
    | 0 => cutInWrite it n.2
    | n' + 1 => cutInPolling it n' n.2

/-- A reset cuts OPBUF_EXEC (R162, R56): any number of items have been performed, the next may be in progress, and the rest
are lost. -/
def cutExec (s : State) : State :=
  let k := drawBelow (s.dev.opbuf.length + 1) s
  let t := drainFrom 0 (s.dev.opbuf.take k.1) k.2
  match s.dev.opbuf.drop k.1 with
  | [] => t
  | it :: _ => if (drawBool t).1 then cutItem it (drawBool t).2 else (drawBool t).2

/-- A reset cuts READ_N: nothing has been sent, or the ACK and any number of the bytes have; and one more cell may have been
read whose byte has not been sent. -/
def cutRead (addr : Addr) (len : U24) (s : State) : State :=
  let k := drawBelow (len.toNat + 2) s
  match k.1 with
  | 0 => k.2
  | n + 1 =>
    let t := readLoop addr 0 n (send [statusByte s.cfg true] k.2)
    if n < len.toNat ∧ (drawBool t).1 = true then (drvRead (elemAddr addr n) (drawBool t).2).2 else (drawBool t).2

/-- A reset cuts a command whose response is fixed when it starts: any beginning of the response has been sent. -/
def cutResponse (i : Instr) (s : State) : State :=
  match exec i s with
  | .next t =>
    let response := t.link.d2h.drop s.link.d2h.length
    let k := drawBelow (response.length + 1) s
    send (response.take k.1) k.2
  | .fault _ => s
  | .refused _ => s

/-- What the command in progress has done when a reset cuts it. Outside BUSY there is none. -/
def cutCommand (s : State) : State :=
  match s.dev.fsm with
  | .busy =>
    match request s with
    | some .opbufExec => cutExec s
    | some (.readN addr len) => cutRead addr len s
    | some i => cutResponse i s
    | none => s
  | .idle => s
  | .rxHdr => s
  | .rxData => s

end Sys2Proof.Machine
end

