-- ==== Sys2Proof/Machine/Session.lean ====
section
/-! DEFINITION. The host session client: opening, `Transact` and its parts, and `Close` (42_host_session.md). -/
namespace Sys2Proof.Machine

/-- `hsend(req)` (R118): the request's bytes are handed to the transport, and the request is outstanding. -/
def hostSend (i : Instr) (s : State) : State :=
  { s with
    link := { s.link with wire := s.link.wire ++ encode s.cfg.opcodes i }
    host := { s.host with sent := true } }

/-- The whole expected response has arrived (R118, R119): one status byte and the payload (R71). -/
def responseReady (i : Instr) (s : State) : Bool :=
  1 + payloadLength i ≤ s.link.d2h.length

/-- `FlushInput()` (R123): of the bytes past the response, those already waiting are discarded; those still on their way
stay, and arrive later. How many are still on their way is a free choice (log 10). -/
def flushInput (extra : List Byte) (s : State) : State :=
  match extra with
  | [] => { s with link := { s.link with d2h := [] } }
  | _ :: _ =>
    let k := drawBelow (extra.length + 1) s
    { k.2 with link := { k.2.link with d2h := extra.drop (extra.length - k.1) } }

/-- The log and the count of `HandleStatus` (R121). -/
def countStatus (opcode st : Byte) (s : State) : State :=
  { s with
    host := { s.host with log := s.host.log ++ [.status opcode st], nakCount := s.host.nakCount + 1 } }

/-- The bytes handed to the transport that have not reached the device may be lost when the transport is torn down: any
beginning of them still arrives (R165: a request that stops partway). -/
def cutWire (s : State) : State :=
  match s.link.wire with
  | [] => s
  | _ :: _ =>
    let k := drawBelow (s.link.wire.length + 1) s
    { k.2 with link := { k.2.link with wire := s.link.wire.take k.1 } }

/-- `hrecv` times out (R118, R119, R124): some part of the response, not all of it, has been received and is dropped; the
session aborts with `TransportError`, whose recorded value is the opcode and the number of bytes received (R141). -/
def hostTimeout (i : Instr) (s : State) : State :=
  let k := drawBelow (min s.link.d2h.length (payloadLength i) + 1) s
  let t := { k.2 with link := { k.2.link with d2h := k.2.link.d2h.drop k.1 } }
  hostFatal .transportError (.transport (some (opcodeByte s.cfg.opcodes i.opcode)) k.1) (cutWire t)

/-- Opening the transport succeeds: of the bytes an earlier session left on the device-to-host stream, any ending is still
there to be read (log 11). -/
def openLink (s : State) : State :=
  match s.link.d2h with
  | [] => s
  | _ :: _ =>
    let k := drawBelow (s.link.d2h.length + 1) s
    { k.2 with link := { k.2.link with d2h := s.link.d2h.drop k.1 } }

/-- `Open()` (R116): the transport opens, or fails to, by a free choice; on success `sess` is OPEN and the handshake runs
next, on failure it is a `TransportError`, which leaves the bytes on their way and those not yet read where they are (DESIGN
CHOICE, log 27). -/
def hostOpen (s : State) : State :=
  if (drawBool s).1 then hostFatal .transportError (.transport none 0) (drawBool s).2
  else
    let t := openLink (drawBool s).2
    hostGoto .hsName { t with host := { t.host with sess := .opened } }

/-- `Close()` (R126): sends nothing. -/
def hostClose (s : State) : State :=
  hostReturn .closed { s with host := { s.host with sess := .closed } }

end Sys2Proof.Machine
end

