-- ==== Sys2Proof/Machine/Orchestrator.lean ====
section
/-! DEFINITION. The host orchestrator: the workflows, one `Transact` a step (43_host_orchestrator.md), and the host's
program. -/
namespace Sys2Proof.Machine

/-- The default chunk size `w_chunk` (R130, C2). -/
def defaultChunk (s : State) : Nat :=
  min (min s.host.serbufCap.toNat s.cfg.chunkConst) s.host.opbufCap.toNat

/-- The chunk of a write that starts at `w_off` (R131). -/
def writeChunk (h : HostSide) (j : WriteJob) : List Byte :=
  (j.data.drop h.wOff).take h.wChunk

/-- The request of each point of a workflow (R120, R129, R131, R134 to R137), built by R68 when it is sent. -/
def phaseRequest (h : HostSide) : Phase → Instr
  | .hsName => .queryName
  | .hsOpbufSize => .queryOpbufSize
  | .hsSerbufSize => .querySerbufSize
  | .hsErrcntReset => .errorcntReset
  | .read a n => .readN a n
  | .verify a d => .readN a (BitVec.ofNat 24 d.length)
  | .writeStage j =>
    .opbufWriten (BitVec.ofNat 24 (writeChunk h j).length) (elemAddr j.addr h.wOff) (writeChunk h j)
  | .writeExec _ => .opbufExec
  | .writeTrail _ => .opbufExec
  | .writeCount _ => .errorcntQuery
  | .eraseCheck a n _ _ => .readN a n
  | .lockStage set _ => if set then .opbufSetSdp else .opbufResetSdp
  | .lockExec _ => .opbufExec

/-- The head of `Write`'s loop (R131): another chunk, or the trailing OPBUF_EXEC if anything is staged, or the count. -/
def writeNext (j : WriteJob) (s : State) : State :=
  if s.host.wOff < j.data.length then hostGoto (.writeStage j) s
  else if s.host.wStaged > 0 then hostGoto (.writeTrail j) s
  else hostGoto (.writeCount j) s

/-- `Write(a, d, k)` starts (R130, R131). It raises `HostParamError` where the chunk size is 0, whether asked for or
because a capacity was reported as 0, and where a chunk's length does not fit in 24 bits (R127; log 14). That the register
`w_chunk` then holds the chunk size in use, an explicit `k` where one is given, is the model's choice (DESIGN CHOICE, log 25). -/
def startWrite (a : Addr) (d : List Byte) (k : Option Nat) (erase : Bool) (s : State) : State :=
  let chunk := k.getD (defaultChunk s)
  if chunk = 0 ∨ defaultChunk s = 0 then hostParamError .chunk s
  else if 2 ^ 24 ≤ min chunk d.length then hostParamError .len s
  else
    writeNext { addr := a, data := d, nak0 := s.host.nakCount, erase := erase }
      { s with host := { s.host with wOff := 0, wStaged := 0, wChunk := chunk } }

/-- The caller's call starts: parameters are checked before anything is sent (R148, R149). -/
def startCall (c : Call) (s : State) : State :=
  match c with
  | .session => hostOpen s
  | .close => hostClose s
  | .read a n => if 2 ^ 24 ≤ n then hostParamError .len s else hostGoto (.read a (BitVec.ofNat 24 n)) s
  | .write a d k => startWrite a d k false s
  | .verify a d => if 2 ^ 24 ≤ d.length then hostParamError .len s else hostGoto (.verify a d) s
  | .erase a n =>
    if 2 ^ 24 ≤ n then hostParamError .len s else startWrite a (List.replicate n 0xFF) none true s
  | .setLock => hostGoto (.lockStage true s.host.nakCount) s
  | .clearLock => hostGoto (.lockStage false s.host.nakCount) s

/-- `Transact` has returned `(st, payload)`: the workflow goes on (R120, R129, R131, R134 to R137). R120's pseudocode returns
nothing; that the complete handshake returns a result of its own, without a `nak_seen`, is the model's choice (DESIGN CHOICE,
log 29). -/
def advance (p : Phase) (st : Byte) (payload : List Byte) (s : State) : State :=
  match p with
  | .hsName => hostGoto .hsOpbufSize { s with host := { s.host with name := payload } }
  | .hsOpbufSize => hostGoto .hsSerbufSize { s with host := { s.host with opbufCap := readLe16 payload } }
  | .hsSerbufSize => hostGoto .hsErrcntReset { s with host := { s.host with serbufCap := readLe16 payload } }
  | .hsErrcntReset => hostReturn .session s
  | .read _ _ => hostReturn (.read payload (st != s.cfg.ack)) s
  | .verify _ d => hostReturn (.verify (payload == d) (st != s.cfg.ack)) s
  | .writeStage j =>
    hostGoto (.writeExec j)
      { s with host := { s.host with wStaged := s.host.wStaged + (writeChunk s.host j).length } }
  | .writeExec j =>
    writeNext j
      { s with host := { s.host with wStaged := 0, wOff := s.host.wOff + (writeChunk s.host j).length } }
  | .writeTrail j => hostGoto (.writeCount j) { s with host := { s.host with wStaged := 0 } }
  | .writeCount j =>
    if j.erase then
      hostGoto (.eraseCheck j.addr (BitVec.ofNat 24 j.data.length) (readLe32 payload)
        (decide (s.host.nakCount > j.nak0))) s
    else hostReturn (.write (readLe32 payload) (decide (s.host.nakCount > j.nak0))) s
  | .eraseCheck _ n errcnt nakSeen =>
    hostReturn (.erase errcnt (payload == List.replicate n.toNat 0xFF) (nakSeen || st != s.cfg.ack)) s
  | .lockStage _ nak0 => hostGoto (.lockExec nak0) s
  | .lockExec nak0 => hostReturn (.lock (decide (s.host.nakCount > nak0))) s

/-- The host takes a whole response (R118): flush, decode the status byte, handle a status other than `P_ACK` by
`P_NAK_POLICY` (R121, R122), and go on with the workflow. Where a `ProtocolError` under `Fatal` aborts the session with request
bytes still on their way, the spec does not say what becomes of them (R165); that all of them stay is the model's choice
(DESIGN CHOICE, log 27). -/
def takeResponse (p : Phase) (s : State) : State :=
  let i := phaseRequest s.host p
  let opcode := opcodeByte s.cfg.opcodes i.opcode
  match s.link.d2h.take (1 + payloadLength i) with
  | [] => s
  | st :: payload =>
    let t := flushInput (s.link.d2h.drop (1 + payloadLength i)) s
    if st = s.cfg.ack then advance p st payload t
    else
      match s.cfg.nakPolicy with
      | .proceedReported => advance p st payload (countStatus opcode st t)
      | .fatal => hostFatal .protocolError (.protocol opcode st) (countStatus opcode st t)

/-- The host can move: its program has a call to make or is at its end, or a request to send, or a whole response to
take. -/
def hostReady (s : State) : Bool :=
  s.host.running &&
    match s.host.phase with
    | none => true
    | some p => !s.host.sent || responseReady (phaseRequest s.host p) s

/-- One step of the host. `Transact` requires `sess = OPEN` (R118). -/
def hostStep (s : State) : Host.Outcome State Fault Refusal :=
  match s.host.phase with
  | none =>
    match s.host.calls with
    | [] => .next (hostExit s)
    | c :: rest => .next (startCall c { s with host := { s.host with calls := rest } })
  | some p =>
    if s.host.sent then .next (takeResponse p s)
    else if s.host.sess = .opened then .next (hostSend (phaseRequest s.host p) s)
    else .fault .transactNotOpen

/-- The response timer runs: a request is outstanding (R119). -/
def timerReady (s : State) : Bool :=
  s.host.running && s.host.phase.isSome && s.host.sent

/-- The response timer expires before the whole response has been received (R118, R119). -/
def timerStep (s : State) : State :=
  match s.host.phase with
  | none => s
  | some p => hostTimeout (phaseRequest s.host p) s

/-- A host program starts, in the state of R33 (R163). -/
def startHost (calls : List Call) (s : State) : State :=
  { s with host := { HostSide.reset with running := true, calls := calls } }

/-- The host program crashes (R165): what it was doing is gone, and its request may stop partway. Where no program runs (log 28),
only the bytes on their way and the choice taken change. -/
def hostCrash (s : State) : State :=
  let t := cutWire s
  { t with host := { t.host with running := false, calls := [], phase := none, sent := false } }

end Sys2Proof.Machine
end

