-- ==== Sys2Proof/Machine/Sched.lean ====
section
/-! DEFINITION. Which agent moves, and the move (log 6, log 12). The spec orders the agents only by what each waits for; where
more than one can move, which one does is a free choice. -/
namespace Sys2Proof.Machine

/-- The next input can land. A host program starts only when none runs (R158: there is one host). That a host crash may land
while none runs too, and then may lose bytes on their way, is the model's choice (DESIGN CHOICE, log 28). -/
def outsideReady (s : State) : Bool :=
  match s.env.inputs with
  | [] => false
  | .startHost _ :: _ => !s.host.running
  | .deviceReset :: _ => true
  | .hostCrash :: _ => true
  | .rawByte _ :: _ => true

/-- The next input lands. -/
def outsideStep (s : State) : State :=
  match s.env.inputs with
  | [] => s
  | input :: rest =>
    let t := { s with env := { s.env with inputs := rest } }
    match input with
    | .deviceReset => deviceReset (cutCommand t)
    | .startHost calls => startHost calls t
    | .hostCrash => hostCrash t
    | .rawByte b => { t with link := { t.link with wire := t.link.wire ++ [b] } }

/-- An agent can move. -/
def agentReady (s : State) : Agent → Bool
  | .device => deviceReady s
  | .link => !s.link.wire.isEmpty
  | .host => hostReady s
  | .timer => timerReady s
  | .outside => outsideReady s

/-- The agents that can move, the device first. -/
def readyAgents (s : State) : List Agent :=
  [.device, .link, .host, .timer, .outside].filter (agentReady s)

/-- One agent's move. -/
def agentStep (a : Agent) (s : State) : Host.Outcome State Fault Refusal :=
  match a with
  | .device => deviceStep s
  | .link => .next (linkStep s)
  | .host => hostStep s
  | .timer => .next (timerStep s)
  | .outside => .next (outsideStep s)

/-- The agent that moves next, and the state after the choice: none if no agent can move, the only one that can, or a free
choice among those that can. -/
def chooseAgent (s : State) : Option Agent × State :=
  match readyAgents s with
  | [] => (none, s)
  | [a] => (some a, s)
  | a :: b :: rest =>
    let k := drawBelow ((a :: b :: rest).length) s
    ((a :: b :: rest)[k.1]?, k.2)

/-- One step of the machine: a configuration that breaks R8 is refused; else the chosen agent moves; and where none can, the
machine waits as it is (R161: the device waits for an opcode byte; R165: or, stuck, inside a partial frame). -/
def machineStep (s : State) : Host.Outcome State Fault Refusal :=
  match configViolation s.cfg with
  | some c => .refused (.configRefused c)
  | none =>
    match chooseAgent s with
    | (none, t) => .next t
    | (some a, t) => agentStep a t

/-- Puts a request at the device as a receiver that has just taken its last byte leaves it (R93 to R95), under the table's
opcode bytes, and, where other agents could move too, prescribes that the device moves first (log 17). -/
def placeRequest (frame : List Byte) (s : State) : State :=
  let t := receiveAll frame
    { s with cfg := { s.cfg with opcodes := OpcodeMap.default }, dev := { s.dev with fsm := .idle } }
  if (readyAgents t).length ≤ 1 then t else { t with env := { t.env with script := 0 :: t.env.script } }

end Sys2Proof.Machine
end

