-- ==== Sys2Proof/Machine/Step.lean ====
section
/-! DEFINITION. The machine's step, and the placing of an instruction where the next step runs it. -/
namespace Sys2Proof.Machine

/-- One step of the machine. -/
def step (s : State) : Host.Outcome State Fault Refusal :=
  machineStep s

/-- The instruction of a word of spec/opcode_table.json, put where `step` takes its next instruction: the block has no
program counter and fetches nothing (R16), so this is the receiver registers in BUSY (log 17). -/
def State.withFetchWord (s : State) (nbits w : Nat) : State :=
  placeRequest (tableBytes nbits w) s

end Sys2Proof.Machine
end

