-- ==== Sys2Proof/Machine/Text.lean ====
section
/-! DEFINITION. The textual syntax of command sequences (30_encoding.md R76, R77): one request, host workflow or response a
line. The spec gives the forms; what separates words (spaces and tabs) is the model's reading (log 23). -/
namespace Sys2Proof.Machine

/-- The words and signs of a line. -/
inductive Token where
  | word (letters : List Char)
  | comma
  | openList
  | closeList
  | arrow
  deriving DecidableEq, Repr

/-- What a line says. -/
inductive Line where
  | blank
  /-- A request (R76). -/
  | request (i : Instr)
  /-- A host workflow (R77). -/
  | workflow (c : Call)
  /-- `-> ACK`, `-> ACK [b0, …]` or `-> NAK` (R76). -/
  | response (ack : Bool) (payload : List Byte)
  deriving DecidableEq, Repr

/-- Ends the word being read, if there is one; its letters are held last first. -/
def endWord (word : List Char) (rest : List Token) : List Token :=
  match word with
  | [] => rest
  | c :: cs => .word (c :: cs).reverse :: rest

/-- Cuts a line into tokens, up to its comment (`;`); none at a character no form has. -/
def tokens (word : List Char) : List Char → Option (List Token)
  | [] => some (endWord word [])
  | '-' :: '>' :: rest => (tokens [] rest).map fun ts => endWord word (.arrow :: ts)
  | c :: rest =>
    if c = ';' then some (endWord word [])
    else if c = ' ' ∨ c = '\t' then (tokens [] rest).map (endWord word)
    else if c = ',' then (tokens [] rest).map fun ts => endWord word (.comma :: ts)
    else if c = '[' then (tokens [] rest).map fun ts => endWord word (.openList :: ts)
    else if c = ']' then (tokens [] rest).map fun ts => endWord word (.closeList :: ts)
    else if c.isAlphanum || c = '_' then tokens (c :: word) rest
    else none

/-- The value of a digit; none where it is no digit of that base. -/
def digitValue (base : Nat) (c : Char) : Option Nat :=
  let n := c.toNat
  let v :=
    if 48 ≤ n ∧ n ≤ 57 then n - 48
    else if 65 ≤ n ∧ n ≤ 70 then n - 55
    else if 97 ≤ n ∧ n ≤ 102 then n - 87
    else base
  if v < base then some v else none

/-- Digits in a base, the first one the most significant. -/
def digitsValue (base : Nat) : Nat → List Char → Option Nat
  | acc, [] => some acc
  | acc, c :: rest =>
    match digitValue base c with
    | none => none
    | some v => digitsValue base (acc * base + v) rest

/-- A number: decimal, or hexadecimal after `0x` (R76). -/
def number : List Char → Option Nat
  | [] => none
  | '0' :: 'x' :: c :: rest => digitsValue 16 0 (c :: rest)
  | c :: rest => digitsValue 10 0 (c :: rest)

/-- A number below a bound. -/
def numberBelow (bound : Nat) (letters : List Char) : Option Nat :=
  match number letters with
  | none => none
  | some n => if n < bound then some n else none

/-- An address: below 2^24 (R76). -/
def textAddr (letters : List Char) : Option Addr :=
  (numberBelow (2 ^ 24) letters).map (BitVec.ofNat 24)

/-- The bytes of a list after its opening bracket, each below 256 (R76). -/
def textItems : List Token → Option (List Byte)
  | [.word w, .closeList] => (numberBelow 256 w).map fun n => [BitVec.ofNat 8 n]
  | .word w :: .comma :: rest =>
    match numberBelow 256 w, textItems rest with
    | some n, some bs => some (BitVec.ofNat 8 n :: bs)
    | _, _ => none
  | _ => none

/-- A byte list: `[]` or `[b0, b1, …]`. -/
def textBytes : List Token → Option (List Byte)
  | [.openList, .closeList] => some []
  | .openList :: rest => textItems rest
  | _ => none

/-- The requests and workflows without operands. -/
def bareLines : List (List Char × Line) :=
  [("QUERY_NAME".toList, .request .queryName), ("OPBUF_INIT".toList, .request .opbufInit),
    ("QUERY_OPBUF_SIZE".toList, .request .queryOpbufSize), ("QUERY_SERBUF_SIZE".toList, .request .querySerbufSize),
    ("OPBUF_SET_SDP".toList, .request .opbufSetSdp), ("OPBUF_RESET_SDP".toList, .request .opbufResetSdp),
    ("OPBUF_EXEC".toList, .request .opbufExec), ("ERRORCNT_QUERY".toList, .request .errorcntQuery),
    ("ERRORCNT_RESET".toList, .request .errorcntReset), ("H_SESSION".toList, .workflow .session),
    ("H_SETLOCK".toList, .workflow .setLock), ("H_CLEARLOCK".toList, .workflow .clearLock)]

/-- `OPBUF_WRITEN <addr>, [<b0>, …]`: `len` is the list's length, below 2^24 (R76, R68). -/
def writenLine (addr : Addr) (data : List Byte) : Option Line :=
  if data.length < 2 ^ 24 then some (.request (.opbufWriten (BitVec.ofNat 24 data.length) addr data)) else none

/-- The forms with an address and a byte list. -/
def dataLine (name : List Char) (addr : Addr) (data : List Byte) : Option Line :=
  if name = "OPBUF_WRITEN".toList then writenLine addr data
  else if name = "H_WRITE".toList then some (.workflow (.write addr data none))
  else if name = "H_VERIFY".toList then some (.workflow (.verify addr data))
  else none

/-- The forms with an address and a length. READ_N's is below 2^24 (R68); a workflow's is checked when it starts. -/
def lengthLine (name : List Char) (addr : Addr) (n : Nat) : Option Line :=
  if name = "READ_N".toList then
    if n < 2 ^ 24 then some (.request (.readN addr (BitVec.ofNat 24 n))) else none
  else if name = "H_READ".toList then some (.workflow (.read addr n))
  else if name = "H_ERASE".toList then some (.workflow (.erase addr n))
  else none

/-- What a tokenised line says; none where it is no form of R76 or R77. -/
def lineOf (ts : List Token) : Option Line :=
  match ts with
  | [] => some .blank
  | [.word name] => (bareLines.find? fun p => p.1 == name).map fun p => p.2
  | [.word name, .word a, .comma, .word n] =>
    match textAddr a, number n with
    | some addr, some len => lengthLine name addr len
    | _, _ => none
  | .word name :: .word a :: .comma :: rest =>
    match textAddr a, textBytes rest with
    | some addr, some data => dataLine name addr data
    | _, _ => none
  | .arrow :: .word st :: rest =>
    if st = "NAK".toList then if rest = [] then some (.response false []) else none
    else if st = "ACK".toList then
      if rest = [] then some (.response true []) else (textBytes rest).map (.response true)
    else none
  | _ => none

/-- What a line of text says. -/
def readLine (text : List Char) : Option Line :=
  match tokens [] text with
  | none => none
  | some ts => lineOf ts

/-- The bytes a request line encodes as (R76, R68); none for any other line. -/
def assembleLine (ops : OpcodeMap) (text : List Char) : Option (List Byte) :=
  match readLine text with
  | some (.request i) => some (encode ops i)
  | some .blank => none
  | some (.workflow _) => none
  | some (.response _ _) => none
  | none => none

/-- A response as R76 writes it, for the status byte and payload received: `P_ACK` is `-> ACK`, `P_NAK` is `-> NAK`. -/
def responseLine (c : Config) (st : Byte) (payload : List Byte) : Option Line :=
  if st = c.ack then some (.response true payload)
  else if st = c.nak ∧ payload = [] then some (.response false [])
  else none

end Sys2Proof.Machine
end

