-- ==== Sys2Proof/Safety.lean ====
section
/-! DEFINITION. What counts as a safe state, and the words the statements use: the invariants of the device, the chip's
cells and the host, the bus cycles of one driver operation, and the runs of several requests. -/
namespace Sys2Proof.Machine

/-! ## Invariants -/

/-- The bus is idle: no signal asserted (R161). -/
def BusIdle (s : State) : Prop :=
  s.dev.bus.drive = false ∧ s.dev.bus.oe = false ∧ s.dev.bus.we = false ∧ s.dev.bus.ce = false

/-- The opbuf bound (R20). -/
def OpbufBounded (s : State) : Prop :=
  s.dev.opbuf.length ≤ s.cfg.opbufCap.toNat

/-- The receiver registers agree with `dev_state` (R17, R18, R93 to R95): a header is incomplete in RX_HDR and belongs to
OPBUF_WRITEN or READ_N; in RX_DATA data of an OPBUF_WRITEN is missing; and the data kept is what came, up to
`serbuf_cap`. -/
structure ReceiverConsistent (s : State) : Prop where
  header : s.dev.fsm = .rxHdr →
    s.dev.rxHdr.length < 6 ∧ (s.dev.rxOp = s.cfg.opcodes.opbufWriten ∨ s.dev.rxOp = s.cfg.opcodes.readN)
  data : s.dev.fsm = .rxData →
    s.dev.rxOp = s.cfg.opcodes.opbufWriten ∧ s.dev.rxGot.toNat < s.dev.rxLen.toNat
      ∧ s.dev.rxData.length = min s.dev.rxGot.toNat s.cfg.serbufCap.toNat
  complete : s.dev.fsm = .busy → s.dev.rxOp = s.cfg.opcodes.opbufWriten →
    s.dev.rxData.length = min s.dev.rxLen.toNat s.cfg.serbufCap.toNat

/-- The device's invariant. -/
structure DeviceInv (s : State) : Prop where
  opbuf : OpbufBounded s
  bus : BusIdle s
  poll : s.dev.pollCnt ≤ s.cfg.pollLimit
  receiver : ReceiverConsistent s

/-- The write job a phase belongs to. -/
def phaseJob : Phase → Option WriteJob
  | .writeStage j => some j
  | .writeExec j => some j
  | .writeTrail j => some j
  | .writeCount j => some j
  | .hsName => none
  | .hsOpbufSize => none
  | .hsSerbufSize => none
  | .hsErrcntReset => none
  | .read _ _ => none
  | .verify _ _ => none
  | .eraseCheck _ _ _ _ => none
  | .lockStage _ _ => none
  | .lockExec _ => none

/-- The host's invariant: a request is outstanding only inside a workflow of a running program with an open session
(R117, R125); the name is 16 bytes (R29); the trailing OPBUF_EXEC is never reached (R139); and a write's working registers
agree with its point (R131): nothing is staged before a chunk, exactly that chunk after it. That the chunk is the one of the
register `w_chunk`, which holds an explicit chunk size where one is given, is the model's choice (log 25), and so is its bound of
2^24 bytes (log 14). -/
structure HostInv (s : State) : Prop where
  outstanding : s.host.sent = true → s.host.running = true ∧ s.host.sess = .opened ∧ s.host.phase.isSome = true
  stopped : s.host.running = false → s.host.phase = none
  name : s.host.name.length = 16
  noTrail : ∀ j, s.host.phase ≠ some (.writeTrail j)
  stage : ∀ j, s.host.phase = some (.writeStage j) →
    s.host.wStaged = 0 ∧ s.host.wOff < j.data.length ∧ 1 ≤ s.host.wChunk ∧ min s.host.wChunk j.data.length < 2 ^ 24
  exec : ∀ j, s.host.phase = some (.writeExec j) →
    s.host.wStaged = (writeChunk s.host j).length ∧ s.host.wOff < j.data.length ∧ 1 ≤ s.host.wChunk
      ∧ min s.host.wChunk j.data.length < 2 ^ 24
  verify : ∀ a d, s.host.phase = some (.verify a d) → d.length < 2 ^ 24
  erase : ∀ p j, s.host.phase = some p → phaseJob p = some j → j.erase = true → j.data.length < 2 ^ 24

/-! ## Frames -/

/-- What the driver may change (R84, R109): bus, `poll_cnt`, `exec_idx`, `errcnt`, the chip and the record of bus cycles.
Everything else is as before. -/
def DriverFrame (s t : State) : Prop :=
  t = { s with
    dev := { s.dev with
      bus := t.dev.bus, pollCnt := t.dev.pollCnt, execIdx := t.dev.execIdx, errcnt := t.dev.errcnt }
    chip := t.chip
    busLog := t.busLog }

/-- The response a command has sent, and the return to IDLE: the whole change of a command that touches nothing else. -/
def answered (response : List Byte) (s : State) : State :=
  { s with
    dev := { s.dev with fsm := .idle }
    link := { s.link with d2h := s.link.d2h ++ response } }

/-! ## Bus cycles -/

/-- A legal write cycle (R86): output disabled, the device driving, chip enabled. -/
def writeCycleAt (a : Addr) (v : Byte) : BusCycle :=
  { kind := .write, addr := a, data := v, oe := false, ce := true, drive := true }

/-- A legal read (R85): output enabled, the device not driving, chip enabled. -/
def readCycleAt (a : Addr) (v : Byte) : BusCycle :=
  { kind := .read, addr := a, data := v, oe := true, ce := true, drive := false }

/-- The bus cycles of one performed item whose polling took these samples, oldest first. -/
def itemCycles (it : Item) (samples : List Byte) : List BusCycle :=
  writeCycleAt it.addr it.value :: samples.map (readCycleAt it.addr)

/-- Bit 7 of a sample matches the written value (R88). -/
def bit7Match (v sample : Byte) : Bool :=
  sample.getLsbD 7 == v.getLsbD 7

/-- The samples of one performed item (R87, R88, R89). A fast write takes none. A polled write takes at least one and at
most `limit`; no sample but the last has a matching bit 7; and either the last matches, or all `limit` were taken. -/
def SamplesOf (limit : Nat) (it : Item) (samples : List Byte) : Prop :=
  match it.mode with
  | .fast => samples = []
  | .polled =>
    1 ≤ samples.length ∧ samples.length ≤ limit
      ∧ (∀ b ∈ samples.dropLast, bit7Match it.value b = false)
      ∧ ((samples.any (bit7Match it.value)) = false → samples.length = limit)

/-- One performed item failed its polling (R89 (b)): it was polled, and no sample matched. -/
def itemFailed (it : Item) (samples : List Byte) : Bool :=
  match it.mode with
  | .fast => false
  | .polled => !(samples.any (bit7Match it.value))

/-! ## Several requests -/

/-- Executes requests one after the other; none if one of them stops. -/
def runRequests : List Instr → State → Option State
  | [], s => some s
  | i :: rest, s =>
    match exec i s with
    | .next t => runRequests rest t
    | .fault _ => none
    | .refused _ => none

/-- `n` steps of the device alone; none if one of them stops. -/
def deviceRun : Nat → State → Option State
  | 0, s => some s
  | n + 1, s =>
    match deviceStep s with
    | .next t => deviceRun n t
    | .fault _ => none
    | .refused _ => none

/-- A staging command: one that can answer `P_NAK` (R107). -/
def isStaging : Instr → Bool
  | .opbufWriten _ _ _ => true
  | .opbufSetSdp => true
  | .opbufResetSdp => true
  | .queryName => false
  | .opbufInit => false
  | .queryOpbufSize => false
  | .querySerbufSize => false
  | .opbufExec => false
  | .readN _ _ => false
  | .errorcntQuery => false
  | .errorcntReset => false

/-- The OPBUF_WRITEN and OPBUF_EXEC requests of a write of `d` with chunk size `k`, from data offset `off` on (R131);
`fuel` bounds the number of chunks. -/
def writeFramesFrom (a : Addr) (k : Nat) : Nat → Nat → List Byte → List Instr
  | 0, _, _ => []
  | fuel + 1, off, d =>
    if d = [] then []
    else
      .opbufWriten (BitVec.ofNat 24 (d.take k).length) (elemAddr a off) (d.take k) :: .opbufExec ::
        writeFramesFrom a k fuel (off + (d.take k).length) (d.drop k)

/-- The OPBUF_WRITEN and OPBUF_EXEC requests of a whole write (R131). -/
def writeFrames (a : Addr) (k : Nat) (d : List Byte) : List Instr :=
  writeFramesFrom a k d.length 0 d

/-! ## Choices, the chip's answers, and the host's runs -/

/-- Choices have been taken and nothing else of the environment has changed: the inputs are the same, the prescribed choices
are used up from the front, and the count of free ones does not fall (log 6). -/
structure Drawn (before later : Env) : Prop where
  inputs : later.inputs = before.inputs
  script : later.script <:+ before.script
  draws : before.draws ≤ later.draws

/-- The bus cycles, oldest first, are the chip's own: each read's byte is what the chip answers at that point, each write is
taken by it, and it ends as `last` (R44). -/
def Conversation (c : Config) : List BusCycle → List BusCycle → Chip → Chip → Prop
  | [], _, chip, last => last = chip
  | cy :: rest, log, chip, last =>
    match cy.kind with
    | .read =>
      cy.data = (chipRead log cy.addr chip).1 ∧ Conversation c rest (cy :: log) (chipRead log cy.addr chip).2 last
    | .write => Conversation c rest (cy :: log) (chipWrite c cy.addr cy.data chip) last
    | .cutWrite => False

/-- One `Transact` of the workflow in progress (R118): the host's step that sends the request, the response arriving whole
and alone, and the host's step that takes it. -/
def transact (reply : Byte × List Byte) (s : State) : Host.Outcome State Fault Refusal :=
  match hostStep s with
  | .next t => hostStep { t with link := { t.link with d2h := reply.1 :: reply.2 } }
  | .fault f => .fault f
  | .refused r => .refused r

/-- The host's workflow, each of its requests answered by the next reply: the requests sent, in order, and the state when it
has ended, has stopped, or the replies are used up. -/
def hostRun : List (Byte × List Byte) → State → List Instr × State
  | [], s => ([], s)
  | reply :: rest, s =>
    match s.host.phase with
    | none => ([], s)
    | some p =>
      match transact reply s with
      | .next t => (phaseRequest s.host p :: (hostRun rest t).1, (hostRun rest t).2)
      | .fault _ => ([], s)
      | .refused _ => ([], s)

/-- No reply ends the workflow: under `ProceedReported` none does, and under `Fatal` only a status other than `P_ACK`
(R122, R149 (d)). -/
def GoesOn (c : Config) (replies : List (Byte × List Byte)) : Prop :=
  c.nakPolicy = .proceedReported ∨ ∀ r ∈ replies, r.1 = c.ack

/-- Some reply has a status other than `P_ACK` (R133). -/
def nakAmong (c : Config) (replies : List (Byte × List Byte)) : Bool :=
  replies.any fun r => r.1 != c.ack

/-- From `s`, the workflow in progress, answered by `replies`, sends exactly `requests`, each whole and in order, and returns
`r`; the session and what ran before it stay. -/
structure Returns (replies : List (Byte × List Byte)) (s : State) (requests : List Instr) (r : Result) : Prop where
  sends : (hostRun replies s).1 = requests
  ended : (hostRun replies s).2.host.phase = none
  results : (hostRun replies s).2.host.results = s.host.results ++ [r]
  sess : (hostRun replies s).2.host.sess = .opened
  calls : (hostRun replies s).2.host.calls = s.host.calls
  wire : (hostRun replies s).2.link.wire = s.link.wire ++ requests.flatMap (encode s.cfg.opcodes)
  nakCount : (hostRun replies s).2.host.nakCount
    = s.host.nakCount + replies.countP fun q => q.1 != s.cfg.ack

end Sys2Proof.Machine
end

