-- ==== Sys2Proof/Certificates/Slice0/Obligations.lean ====
section
/-! DEFINITION. The statements for the provers, each over every state (and so over every configuration, chip and run of free
choices). -/

open Sys2Proof Sys2Proof.Machine

/-! ## Encoding -/

/-- R68, R65, R66, R74: decoding the encoding of a well-formed request gives it back, with the bytes after it. -/
def Obligations.DecodeEncodeRoundTrip : Prop :=
  ∀ (ops : OpcodeMap) (i : Instr) (rest : List Byte),
    Function.Injective (opcodeByte ops) → i.wf = true →
      decodeFrame ops (encode ops i ++ rest) = .ok (i, rest)

/-- The other direction: what the decoder reads is well formed, and its encoding is exactly the bytes read. -/
def Obligations.EncodeDecodeRoundTrip : Prop :=
  ∀ (ops : OpcodeMap) (bs rest : List Byte) (i : Instr),
    decodeFrame ops bs = .ok (i, rest) → i.wf = true ∧ encode ops i ++ rest = bs

/-- R72, R74, R80: on a non-empty byte list the decoder says "unassigned" exactly for a first byte outside `P_OPCODE`, and
"truncated" exactly for a frame shorter than its length of R74. -/
def Obligations.DecoderRejectsByName : Prop :=
  ∀ (ops : OpcodeMap) (b : Byte) (rest : List Byte),
    decodeFrame ops (b :: rest) ≠ .error .empty
    ∧ (∀ c, decodeFrame ops (b :: rest) = .error (.unassigned c) ↔ c = b ∧ ∀ op, opcodeByte ops op ≠ b)
    ∧ (∀ op, decodeFrame ops (b :: rest) = .error (.truncated op) ↔
        opcodeOf ops b = some op
          ∧ ((op = .readN ∧ rest.length < 6)
            ∨ (op = .opbufWriten
              ∧ (rest.length < 6
                ∨ rest.length < 6 + (unle24 (rest.getD 0 0) (rest.getD 1 0) (rest.getD 2 0)).toNat))))

/-- R63, R78: words written out from the encoding tables. -/
def Obligations.SpecWordsDecode : Prop :=
  decodeFrame OpcodeMap.default [0x01] = .ok (.queryName, [])
  ∧ decodeFrame OpcodeMap.default [0x08] = .ok (.opbufExec, [])
  ∧ decodeFrame OpcodeMap.default [0x0A] = .ok (.errorcntQuery, [])
  ∧ decodeFrame OpcodeMap.default [0x05, 0x02, 0x00, 0x00, 0x00, 0x10, 0x00, 0xDE, 0xAD]
      = .ok (.opbufWriten 2 0x001000 [0xDE, 0xAD], [])
  ∧ decodeFrame OpcodeMap.default [0x09, 0x00, 0x10, 0x00, 0x04, 0x00, 0x00] = .ok (.readN 0x001000 4, [])

/-- R78: the two worked encodings, read from the text of R76. -/
def Obligations.TextLinesEncode : Prop :=
  assembleLine OpcodeMap.default "OPBUF_WRITEN 0x001000, [0xDE, 0xAD]".toList
    = some [0x05, 0x02, 0x00, 0x00, 0x00, 0x10, 0x00, 0xDE, 0xAD]
  ∧ assembleLine OpcodeMap.default "READ_N 0x001000, 4".toList
    = some [0x09, 0x00, 0x10, 0x00, 0x04, 0x00, 0x00]

/-! ## The receiver -/

/-- R93: what the device does with a byte in IDLE. -/
def Obligations.IdleTakesOpcode : Prop :=
  ∀ (s : State) (b : Byte), s.dev.fsm = .idle →
    receive b s =
      if b = s.cfg.opcodes.opbufWriten ∨ b = s.cfg.opcodes.readN then
        { s with dev := { s.dev with rxOp := b, rxHdr := [], fsm := .rxHdr } }
      else { s with dev := { s.dev with rxOp := b, fsm := .busy } }

/-- R94: what the device does with a byte in RX_HDR. -/
def Obligations.HeaderBytesDecode : Prop :=
  ∀ (s : State) (b : Byte) (hdr : List Byte), s.dev.fsm = .rxHdr → hdr = s.dev.rxHdr ++ [b] →
    receive b s =
      if hdr.length = 6 then
        if s.dev.rxOp = s.cfg.opcodes.opbufWriten then
          { s with
            dev := { s.dev with
              rxHdr := hdr
              rxLen := unle24 (hdr.getD 0 0) (hdr.getD 1 0) (hdr.getD 2 0)
              rxAddr := unle24 (hdr.getD 3 0) (hdr.getD 4 0) (hdr.getD 5 0)
              rxData := []
              rxGot := 0
              fsm := if unle24 (hdr.getD 0 0) (hdr.getD 1 0) (hdr.getD 2 0) = 0 then .busy else .rxData } }
        else
          { s with
            dev := { s.dev with
              rxHdr := hdr
              rxAddr := unle24 (hdr.getD 0 0) (hdr.getD 1 0) (hdr.getD 2 0)
              rxLen := unle24 (hdr.getD 3 0) (hdr.getD 4 0) (hdr.getD 5 0)
              fsm := .busy } }
      else { s with dev := { s.dev with rxHdr := hdr } }

/-- R95: what the device does with a byte in RX_DATA. -/
def Obligations.DataBytesAreCounted : Prop :=
  ∀ (s : State) (b : Byte), s.dev.fsm = .rxData →
    receive b s =
      { s with
        dev := { s.dev with
          rxData := if s.dev.rxGot.toNat < s.cfg.serbufCap.toNat then s.dev.rxData ++ [b] else s.dev.rxData
          rxGot := s.dev.rxGot + 1
          fsm := if s.dev.rxGot + 1 = s.dev.rxLen then .busy else .rxData } }

/-- R93 to R96: from IDLE, the device takes the whole frame of a well-formed request, however long, in as many steps as it
has bytes; then it is BUSY with the bytes after the frame still waiting, its next step executes that request, and nothing
but the receiver has changed. An OPBUF_WRITEN over `serbuf_cap` is among them. -/
def Obligations.DeviceReceivesAndExecutes : Prop :=
  ∀ (s : State) (i : Instr) (rest : List Byte),
    Function.Injective (opcodeByte s.cfg.opcodes) → s.dev.fsm = .idle → i.wf = true →
    s.link.h2d = encode s.cfg.opcodes i ++ rest →
      ∃ t, deviceRun (frameLength i) s = some t
        ∧ t.dev.fsm = .busy
        ∧ deviceStep t = exec i t
        ∧ t = { s with
            dev := { s.dev with
              fsm := .busy, rxOp := t.dev.rxOp, rxHdr := t.dev.rxHdr, rxLen := t.dev.rxLen, rxAddr := t.dev.rxAddr,
              rxData := t.dev.rxData, rxGot := t.dev.rxGot }
            link := { s.link with h2d := rest } }

/-- R106, R72: an unassigned opcode is a complete request, answered `[P_NAK]`, with nothing else changed but `rx_op`. -/
def Obligations.UnassignedOpcodeIsRejected : Prop :=
  ∀ (s : State) (b : Byte), s.dev.fsm = .idle → (∀ op, opcodeByte s.cfg.opcodes op ≠ b) →
    (receive b s).dev.fsm = .busy
    ∧ deviceStep (receive b s)
        = .next (answered [s.cfg.nak] { s with dev := { s.dev with rxOp := b } })

/-- R166: a byte that arrives while the device is BUSY waits, is lost, or, under `Either`, one of the two by a choice, each of
which some choice brings about; otherwise it waits in order. -/
def Obligations.BytesArrivingWhileBusy : Prop :=
  ∀ (s : State) (b : Byte),
    (s.dev.fsm ≠ .busy → arrive b s = { s with link := { s.link with h2d := s.link.h2d ++ [b] } })
    ∧ (s.dev.fsm = .busy → s.cfg.rxWhileBusy = .buffered →
        arrive b s = { s with link := { s.link with h2d := s.link.h2d ++ [b] } })
    ∧ (s.dev.fsm = .busy → s.cfg.rxWhileBusy = .dropped → arrive b s = s)
    ∧ (s.dev.fsm = .busy → s.cfg.rxWhileBusy = .either →
        (∃ env, Drawn s.env env
          ∧ (arrive b s = { s with env := env }
            ∨ arrive b s = { s with env := env, link := { s.link with h2d := s.link.h2d ++ [b] } }))
        ∧ (∃ c, ∀ rest, arrive b { s with env := { s.env with script := c :: rest } }
            = { s with
                env := { s.env with script := rest }
                link := { s.link with h2d := s.link.h2d ++ [b] } })
        ∧ ∃ c, ∀ rest, arrive b { s with env := { s.env with script := c :: rest } }
            = { s with env := { s.env with script := rest } })

/-- R30: outside BUSY, and in BUSY under `Buffered`, `n` steps of the link carry the next `n` bytes on their way to the device,
in order, behind those that wait there, and change nothing else; in BUSY under `Dropped` they are lost (R166). One step hands
its byte to `arrive`, whatever the state. -/
def Obligations.LinkCarriesBytesInOrder : Prop :=
  ∀ (s : State) (n : Nat),
    (s.dev.fsm ≠ .busy ∨ s.cfg.rxWhileBusy = .buffered →
      linkStep^[n] s = { s with
        link := { s.link with wire := s.link.wire.drop n, h2d := s.link.h2d ++ s.link.wire.take n } })
    ∧ (s.dev.fsm = .busy → s.cfg.rxWhileBusy = .dropped →
      linkStep^[n] s = { s with link := { s.link with wire := s.link.wire.drop n } })
    ∧ ∀ (b : Byte) (rest : List Byte), s.link.wire = b :: rest →
        linkStep s = arrive b { s with link := { s.link with wire := rest } }

/-! ## The step -/

/-- R96: a step in which the device moves in BUSY with a request that decodes to `i` is `exec` of `i`, on the state the
choice of the agent leaves (which differs only in the free choices taken). -/
def Obligations.StepRunsTheRequest : Prop :=
  ∀ (s t : State) (i : Instr),
    configViolation s.cfg = none → chooseAgent s = (some .device, t) → s.dev.fsm = .busy → request s = some i →
      step s = exec i t ∧ t = { s with env := t.env } ∧ Drawn s.env t.env

/-- R8, R141: the step refuses exactly the configurations that break a constraint of R8. -/
def Obligations.StepRefusesBadConfigurations : Prop :=
  ∀ s : State,
    (∃ r, step s = .refused r) ↔
      s.cfg.pollLimit = 0 ∨ s.cfg.chunkConst = 0 ∨ 16 < s.cfg.boardName.length ∨ s.cfg.ack = s.cfg.nak
        ∨ ¬ Function.Injective (opcodeByte s.cfg.opcodes)

/-- R118, R117: the only fault of a step is a workflow that would transact without an open session. -/
def Obligations.StepFaultsOnlyWithoutSession : Prop :=
  ∀ (s : State) (f : Fault), step s = .fault f →
    f = .transactNotOpen ∧ s.host.sess ≠ .opened ∧ s.host.sent = false ∧ s.host.phase.isSome = true

/-! ## Reset -/

/-- R32, R33: the reset state, under any configuration; and R161: a device reset puts the device in that state, drops the
bytes waiting at it, and touches nothing else. A reset that lands outside BUSY, in IDLE or with a partial frame, is exactly that
(R162); in every state it leaves the device so, with nothing waiting at it and the host untouched. The clauses on a device reset
name the whole device: that the registers R32 leaves unspecified come back at the values of `Device.reset` is the model's choice
(log 2), and so is that the bytes on their way to the device and those it has sent stay as they are (log 24). -/
def Obligations.ResetLeavesTheDeviceReady : Prop :=
  ∀ (c : Config) (s : State),
    (State.resetWith c).cfg = c
    ∧ (State.resetWith c).dev.fsm = .idle
    ∧ (State.resetWith c).dev.opbuf = []
    ∧ opbufState (State.resetWith c) = .empty
    ∧ (State.resetWith c).dev.errcnt = 0
    ∧ BusIdle (State.resetWith c)
    ∧ (State.resetWith c).link.h2d = []
    ∧ (State.resetWith c).host.sess = .closed
    ∧ (State.resetWith c).host.nakCount = 0
    ∧ deviceReset s = { s with dev := (State.resetWith c).dev, link := { s.link with h2d := [] } }
    ∧ ∀ rest : List Input, s.env.inputs = .deviceReset :: rest →
        (s.dev.fsm ≠ .busy → outsideStep s = deviceReset { s with env := { s.env with inputs := rest } })
        ∧ (outsideStep s).dev = (State.resetWith c).dev
        ∧ (outsideStep s).link.h2d = []
        ∧ (outsideStep s).host = s.host
        ∧ (outsideStep s).env.inputs = rest

/-- R162: a device reset that lands during OPBUF_EXEC: some beginning of the staged items has been performed in order, the
next item may be in progress (cut in its write cycle, or, polled, among its samples), the rest are lost, and the device is as
after reset, its counter cleared. That the registers R32 leaves unspecified come back at the values of `Device.reset` is the
model's choice (log 2), and so are the points at which the item is cut (log 16), the record of it (log 4), and that the bytes on
their way to the device and those it has sent stay (log 24). -/
def Obligations.ResetCutsTheDrain : Prop :=
  ∀ (s : State) (inputs : List Input),
    1 ≤ s.cfg.pollLimit → s.env.inputs = .deviceReset :: inputs → s.dev.fsm = .busy →
    request s = some .opbufExec →
      (outsideStep s).dev = Device.reset
      ∧ (outsideStep s).link = { s.link with h2d := [] }
      ∧ (outsideStep s).host = s.host
      ∧ ∃ (k : Nat) (samples : List (List Byte)) (cut : List BusCycle),
          k ≤ s.dev.opbuf.length
          ∧ samples.length = k
          ∧ (∀ (n : Nat) it ss, (s.dev.opbuf.take k)[n]? = some it → samples[n]? = some ss →
              SamplesOf s.cfg.pollLimit it ss)
          ∧ (cut = [] ∨ ∃ it, s.dev.opbuf[k]? = some it
              ∧ (cut = [{ writeCycleAt it.addr it.value with kind := .cutWrite }]
                ∨ (it.mode = .polled ∧ ∃ taken : List Byte, taken.length ≤ s.cfg.pollLimit
                    ∧ cut = (itemCycles it taken).reverse)))
          ∧ (outsideStep s).busLog
              = cut ++ ((List.zipWith itemCycles (s.dev.opbuf.take k) samples).flatten.reverse ++ s.busLog)

/-! ## Queries and the error counter -/

/-- R97: QUERY_NAME answers ACK and the name padded with zeros to 16 bytes, and changes nothing else. -/
def Obligations.QueryNameAnswersPaddedName : Prop :=
  encode OpcodeMap.default .queryName = [0x01] ∧ ∀ s : State,
    exec .queryName s = .next (answered (s.cfg.ack :: boardName s.cfg) s)
    ∧ (boardName s.cfg).length = 16
    ∧ ∀ n, n < 16 → (boardName s.cfg)[n]? = some (s.cfg.boardName.getD n 0)

/-- R98, R99: the capacity queries answer ACK and the configured capacity, low byte first, and change nothing else. -/
def Obligations.SizeQueriesAnswerCapacities : Prop :=
  encode OpcodeMap.default .queryOpbufSize = [0x03] ∧ encode OpcodeMap.default .querySerbufSize = [0x04] ∧ ∀ s : State,
    exec .queryOpbufSize s
      = .next (answered [s.cfg.ack, s.cfg.opbufCap.extractLsb' 0 8, s.cfg.opbufCap.extractLsb' 8 8] s)
    ∧ exec .querySerbufSize s
      = .next (answered [s.cfg.ack, s.cfg.serbufCap.extractLsb' 0 8, s.cfg.serbufCap.extractLsb' 8 8] s)

/-- R112: ERRORCNT_QUERY answers ACK and the counter, low byte first, and does not clear it. -/
def Obligations.ErrorcntQueryReportsCounter : Prop :=
  encode OpcodeMap.default .errorcntQuery = [0x0A] ∧ ∀ s : State,
    exec .errorcntQuery s
      = .next (answered [s.cfg.ack, s.dev.errcnt.extractLsb' 0 8, s.dev.errcnt.extractLsb' 8 8,
          s.dev.errcnt.extractLsb' 16 8, s.dev.errcnt.extractLsb' 24 8] s)

/-- R113: ERRORCNT_RESET clears the counter and nothing else, and an ERRORCNT_QUERY right after it reports 0. -/
def Obligations.ErrorcntResetClearsCounter : Prop :=
  encode OpcodeMap.default .errorcntReset = [0x0B] ∧ ∀ s : State, ∃ t,
    exec .errorcntReset s = .next t
    ∧ t = answered [s.cfg.ack] { s with dev := { s.dev with errcnt := 0 } }
    ∧ exec .errorcntQuery t = .next (answered [s.cfg.ack, 0, 0, 0, 0] t)

/-! ## Staging -/

/-- R100: OPBUF_INIT discards the staged items and changes nothing else. -/
def Obligations.OpbufInitDiscardsItems : Prop :=
  encode OpcodeMap.default .opbufInit = [0x02] ∧ ∀ s : State,
    exec .opbufInit s = .next (answered [s.cfg.ack] { s with dev := { s.dev with opbuf := [] } })

/-- R101: OPBUF_WRITEN stages one polled item per data byte at ascending wrapped addresses, or, where the frame is over
`serbuf_cap` or the opbuf would pass `opbuf_cap`, nothing, with a NAK. The data of a frame over `serbuf_cap` is not kept
whole by the receiver (R95), so nothing is asked of it. -/
def Obligations.WritenStagesAllOrNothing : Prop :=
  ∀ (s : State) (len : U24) (addr : Addr) (data : List Byte),
    encode OpcodeMap.default (.opbufWriten len addr data) = 0x05 :: (le24 len ++ le24 addr ++ data) ∧ (
    data.length = len.toNat ∨ s.cfg.serbufCap.toNat < len.toNat →
      exec (.opbufWriten len addr data) s = .next
        (if s.cfg.serbufCap.toNat < len.toNat ∨ s.cfg.opbufCap.toNat < s.dev.opbuf.length + len.toNat then
          answered [s.cfg.nak] s
        else
          answered [s.cfg.ack]
            { s with
              dev := { s.dev with
                opbuf := s.dev.opbuf ++ (List.range len.toNat).map fun n =>
                  { addr := addr + BitVec.ofNat 24 n, value := data.getD n 0, mode := .polled } } }))

/-- R102: OPBUF_SET_SDP stages the lock sequence as fast items, in order, or nothing, with a NAK. -/
def Obligations.SetSdpStagesAllOrNothing : Prop :=
  encode OpcodeMap.default .opbufSetSdp = [0x06] ∧ ∀ s : State,
    exec .opbufSetSdp s = .next
      (if s.cfg.opbufCap.toNat < s.dev.opbuf.length + s.cfg.sdpSet.length then answered [s.cfg.nak] s
      else
        answered [s.cfg.ack]
          { s with
            dev := { s.dev with
              opbuf := s.dev.opbuf ++ s.cfg.sdpSet.map fun p => { addr := p.1, value := p.2, mode := .fast } } })

/-- R103: OPBUF_RESET_SDP stages the unlock sequence as fast items, in order, or nothing, with a NAK. -/
def Obligations.ResetSdpStagesAllOrNothing : Prop :=
  encode OpcodeMap.default .opbufResetSdp = [0x07] ∧ ∀ s : State,
    exec .opbufResetSdp s = .next
      (if s.cfg.opbufCap.toNat < s.dev.opbuf.length + s.cfg.sdpClear.length then answered [s.cfg.nak] s
      else
        answered [s.cfg.ack]
          { s with
            dev := { s.dev with
              opbuf := s.dev.opbuf ++ s.cfg.sdpClear.map fun p => { addr := p.1, value := p.2, mode := .fast } } })

/-! ## The driver, OPBUF_EXEC and READ_N -/

/-- R82, R83, R84, R87: `DrvRead` is one legal read of the chip at the address and returns its answer; `DrvFastWrite` is one
legal write cycle with no sample. Both end with the bus idle and change nothing outside the bus, the chip and the record
of bus cycles: the error counter, the opbuf and `poll_cnt` stay. -/
def Obligations.SingleCycleDriverOperations : Prop :=
  ∀ (s : State) (a : Addr) (v : Byte), BusIdle s →
    (drvRead a s).1 = (chipRead s.busLog a s.chip).1
    ∧ (drvRead a s).2.busLog = readCycleAt a (drvRead a s).1 :: s.busLog
    ∧ (drvRead a s).2.chip = (chipRead s.busLog a s.chip).2
    ∧ BusIdle (drvRead a s).2
    ∧ (drvRead a s).2 = { s with
        dev := { s.dev with bus := (drvRead a s).2.dev.bus }
        chip := (drvRead a s).2.chip
        busLog := (drvRead a s).2.busLog }
    ∧ (drvFastWrite a v s).busLog = writeCycleAt a v :: s.busLog
    ∧ (drvFastWrite a v s).chip = chipWrite s.cfg a v s.chip
    ∧ BusIdle (drvFastWrite a v s)
    ∧ drvFastWrite a v s = { s with
        dev := { s.dev with bus := (drvFastWrite a v s).dev.bus }
        chip := (drvFastWrite a v s).chip
        busLog := (drvFastWrite a v s).busLog }

/-- R89: the outcomes of `DrvPolledWrite` are exact: one write cycle, then samples of the same cell until one has the
written bit 7 or the budget is out, each sample the chip's own answer, and the error counter goes up (saturating) exactly in
the second case. -/
def Obligations.PolledWriteOutcomes : Prop :=
  ∀ (s : State) (a : Addr) (v : Byte), 1 ≤ s.cfg.pollLimit →
    ∃ samples : List Byte,
      SamplesOf s.cfg.pollLimit { addr := a, value := v, mode := .polled } samples
      ∧ (drvPolledWrite a v s).busLog
          = (writeCycleAt a v :: samples.map (readCycleAt a)).reverse ++ s.busLog
      ∧ Conversation s.cfg (writeCycleAt a v :: samples.map (readCycleAt a)) s.busLog s.chip
          (drvPolledWrite a v s).chip
      ∧ (drvPolledWrite a v s).dev.pollCnt = samples.length
      ∧ (drvPolledWrite a v s).dev.errcnt
          = (if samples.any (bit7Match v) then s.dev.errcnt
            else if s.dev.errcnt = 0xFFFFFFFF then 0xFFFFFFFF else s.dev.errcnt + 1)
      ∧ BusIdle (drvPolledWrite a v s)
      ∧ (drvPolledWrite a v s).dev.execIdx = s.dev.execIdx
      ∧ DriverFrame s (drvPolledWrite a v s)

/-- R104, R53: OPBUF_EXEC performs every staged item once, in staging order, each polled item to its end before the next
begins, and the chip takes each write and gives each sample; the counter goes up by the number of failed items, saturating;
then the opbuf is empty and the answer is ACK. Nothing else changes. -/
def Obligations.OpbufExecPerformsItemsInOrder : Prop :=
  encode OpcodeMap.default .opbufExec = [0x08] ∧ ∀ s : State, 1 ≤ s.cfg.pollLimit →
    ∃ (t : State) (samples : List (List Byte)),
      exec .opbufExec s = .next t
      ∧ samples.length = s.dev.opbuf.length
      ∧ (∀ (n : Nat) it ss, s.dev.opbuf[n]? = some it → samples[n]? = some ss → SamplesOf s.cfg.pollLimit it ss)
      ∧ t.busLog = (List.zipWith itemCycles s.dev.opbuf samples).flatten.reverse ++ s.busLog
      ∧ Conversation s.cfg (List.zipWith itemCycles s.dev.opbuf samples).flatten s.busLog s.chip t.chip
      ∧ t.dev.errcnt.toNat
          = min (s.dev.errcnt.toNat + (s.dev.opbuf.zip samples).countP fun p => itemFailed p.1 p.2) (2 ^ 32 - 1)
      ∧ t = answered [s.cfg.ack]
          { s with
            dev := { s.dev with
              opbuf := [], bus := t.dev.bus, pollCnt := t.dev.pollCnt, execIdx := t.dev.execIdx,
              errcnt := t.dev.errcnt }
            chip := t.chip
            busLog := t.busLog }

/-- R111: OPBUF_EXEC makes at most one write and `P_POLL_LIMIT` samples per staged item, and READ_N exactly `len` bus
cycles; no other command makes any (R43). -/
def Obligations.BusCyclesAreBounded : Prop :=
  ∀ (s t : State) (i : Instr), exec i s = .next t →
    ∃ cycles : List BusCycle, t.busLog = cycles ++ s.busLog
      ∧ match i with
        | .opbufExec => cycles.length ≤ s.dev.opbuf.length * (s.cfg.pollLimit + 1)
        | .readN _ len => cycles.length = len.toNat
        | _ => cycles = []

/-- R105: READ_N answers ACK and `len` bytes, the answers to `len` reads at ascending wrapped addresses, in that order, and
changes besides only the bus address, the chip and the record of bus cycles. -/
def Obligations.ReadNReturnsCellsInOrder : Prop :=
  ∀ (s : State) (addr : Addr) (len : U24),
    encode OpcodeMap.default (.readN addr len) = 0x09 :: (le24 addr ++ le24 len) ∧
    ∃ (t : State) (bytes : List Byte),
      exec (.readN addr len) s = .next t
      ∧ bytes.length = len.toNat
      ∧ t.busLog
          = (bytes.mapIdx fun n b => readCycleAt (addr + BitVec.ofNat 24 n) b).reverse ++ s.busLog
      ∧ Conversation s.cfg (bytes.mapIdx fun n b => readCycleAt (addr + BitVec.ofNat 24 n) b) s.busLog s.chip t.chip
      ∧ t = answered (s.cfg.ack :: bytes)
          { s with
            dev := { s.dev with bus := t.dev.bus }
            chip := t.chip
            busLog := t.busLog }

/-- R52: READ_N never consults the opbuf: with other items staged it gives the same answer and the same next state, those
items still staged. -/
def Obligations.ReadNIgnoresStagedItems : Prop :=
  ∀ (s t : State) (addr : Addr) (len : U24) (items : List Item),
    exec (.readN addr len) s = .next t →
      exec (.readN addr len) { s with dev := { s.dev with opbuf := items } }
        = .next { t with dev := { t.dev with opbuf := items } }

/-- 95_test_vectors.md section 1: on the reference chip with no write cycle in progress and no never-settling cell, READ_N
answers with the cells' contents and leaves the chip as it is. -/
def Obligations.ReadNOnReferenceChip : Prop :=
  ∀ (s : State) (rc : RefChip) (addr : Addr) (len : U24),
    s.chip = .reference rc → rc.busy = none → rc.never = [] →
      ∃ t, exec (.readN addr len) s = .next t
        ∧ t.chip = s.chip
        ∧ t.link.d2h = s.link.d2h ++ s.cfg.ack ::
            (List.range len.toNat).map fun n => Memory.read rc.mem (addr + BitVec.ofNat 24 n).toNat

/-- 95_test_vectors.md S1: on the unlocked, idle, settling reference chip with fewer busy samples than the polling budget,
an OPBUF_EXEC of a whole OPBUF_WRITEN's items fails no polling, and leaves every written cell at its byte and every other
cell as it was; the premise on the items keeps them from starting an SDP sequence. -/
def Obligations.ReferenceChipKeepsWrittenBytes : Prop :=
  ∀ (s : State) (rc : RefChip) (addr : Addr) (data : List Byte),
    s.chip = .reference rc → rc.locked = false → rc.busy = none → rc.held = [] → rc.never = [] → rc.mem.wf →
    rc.busyLen < s.cfg.pollLimit → data.length ≤ 2 ^ 24 → s.dev.opbuf = writeItems addr data →
    (∀ it ∈ s.dev.opbuf,
      s.cfg.sdpSet.head? ≠ some (it.addr, it.value) ∧ s.cfg.sdpClear.head? ≠ some (it.addr, it.value)) →
      ∃ t, exec .opbufExec s = .next t
        ∧ t.dev.errcnt = s.dev.errcnt
        ∧ (∀ n, n < data.length →
            Memory.read (chipMemory t) (addr + BitVec.ofNat 24 n).toNat = data.getD n 0)
        ∧ (∀ a : Addr, (∀ n, n < data.length → a ≠ addr + BitVec.ofNat 24 n) →
            Memory.read (chipMemory t) a.toNat = Memory.read (chipMemory s) a.toNat)

/-! ## Across the commands -/

/-- R107, R79, R71: every command completes; its response is one status byte and the payload whose length the request
fixes; only the staging commands can answer `P_NAK`, and then with no payload; every other command answers `P_ACK`; and the
unassigned opcode is answered `P_NAK` alone. -/
def Obligations.ResponsesHaveTheirShape : Prop :=
  (∀ (s : State) (i : Instr), ∃ (t : State) (st : Byte) (payload : List Byte),
    exec i s = .next t
    ∧ t.dev.fsm = .idle
    ∧ t.link.d2h = s.link.d2h ++ st :: payload
    ∧ payload.length = payloadLength i
    ∧ (st = s.cfg.ack ∨ (st = s.cfg.nak ∧ payload = [] ∧ isStaging i = true)))
  ∧ ∀ s : State, rejectUnassigned s = answered [s.cfg.nak] s

/-- R109: which state each command may change when it executes. The receiver registers were written when its frame
arrived and stay. -/
def Obligations.CommandsChangeOnlyTheirState : Prop :=
  ∀ (s t : State) (i : Instr), exec i s = .next t →
    t.cfg = s.cfg ∧ t.host = s.host ∧ t.env = s.env ∧ t.link.wire = s.link.wire ∧ t.link.h2d = s.link.h2d
    ∧ t.dev.rxOp = s.dev.rxOp ∧ t.dev.rxHdr = s.dev.rxHdr ∧ t.dev.rxLen = s.dev.rxLen
    ∧ t.dev.rxAddr = s.dev.rxAddr ∧ t.dev.rxData = s.dev.rxData ∧ t.dev.rxGot = s.dev.rxGot
    ∧ (i = .opbufInit ∨ i = .opbufExec → t.dev.opbuf = [])
    ∧ (isStaging i = true → ∃ items, t.dev.opbuf = s.dev.opbuf ++ items)
    ∧ (i ≠ .opbufInit → i ≠ .opbufExec → isStaging i = false → t.dev.opbuf = s.dev.opbuf)
    ∧ (i = .errorcntReset → t.dev.errcnt = 0)
    ∧ (i ≠ .errorcntReset → i ≠ .opbufExec → t.dev.errcnt = s.dev.errcnt)
    ∧ (i ≠ .opbufExec → (∀ a n, i ≠ .readN a n) →
        t.dev.bus = s.dev.bus ∧ t.chip = s.chip ∧ t.busLog = s.busLog)
    ∧ (i ≠ .opbufExec → t.dev.pollCnt = s.dev.pollCnt ∧ t.dev.execIdx = s.dev.execIdx)

/-! ## Invariants -/

/-- The device's invariant holds at reset, under any configuration. -/
def Obligations.DeviceInvariantAtReset : Prop :=
  ∀ c : Config, DeviceInv (State.resetWith c)

/-- R20, R17, R18, R27, R28: every step keeps the device's invariant: the opbuf within its capacity, the bus idle between
steps, `poll_cnt` within its budget, and the receiver registers consistent with `dev_state`. -/
def Obligations.DeviceInvariantKept : Prop :=
  ∀ s t : State, DeviceInv s → step s = .next t → DeviceInv t

/-- The host's invariant holds at reset, under any configuration. -/
def Obligations.HostInvariantAtReset : Prop :=
  ∀ c : Config, HostInv (State.resetWith c)

/-- R117, R125, R139: every step keeps the host's invariant. Its clauses on a write rest on two choices of the model: that the
register `w_chunk` holds an explicit chunk size where one is given (log 25), and that no write starts whose chunk would hold 2^24
bytes (log 14). -/
def Obligations.HostInvariantKept : Prop :=
  ∀ s t : State, HostInv s → step s = .next t → HostInv t

/-- Every step keeps the reference chip's cells in their canonical form, which they have at reset. -/
def Obligations.ChipCellsStayCanonical : Prop :=
  (∀ c : Config, (chipMemory (State.resetWith c)).wf)
  ∧ ∀ s t : State, (chipMemory s).wf → step s = .next t → (chipMemory t).wf

/-- R110, R35: no step changes the configuration. -/
def Obligations.ConfigurationNeverChanges : Prop :=
  ∀ s t : State, step s = .next t → t.cfg = s.cfg

/-- R23: a step leaves the error counter as it is, or the device executed OPBUF_EXEC and it has not fallen, or executed
ERRORCNT_RESET, or a pending device reset landed, and it is 0. -/
def Obligations.ErrorCounterIsMonotonic : Prop :=
  ∀ s t : State, step s = .next t →
    t.dev.errcnt = s.dev.errcnt
    ∨ (s.dev.fsm = .busy ∧ request s = some .opbufExec ∧ s.dev.errcnt.toNat ≤ t.dev.errcnt.toNat)
    ∨ (s.dev.fsm = .busy ∧ request s = some .errorcntReset ∧ t.dev.errcnt = 0)
    ∨ ((∃ rest, s.env.inputs = .deviceReset :: rest ∧ t.env.inputs = rest) ∧ t.dev.errcnt = 0)

/-- R96: a step in which the device is not BUSY adds no byte to the device-to-host stream: the device sends nothing
unsolicited. -/
def Obligations.DeviceSendsNothingUnsolicited : Prop :=
  ∀ s t : State, s.dev.fsm ≠ .busy → step s = .next t → t.link.d2h.Sublist s.link.d2h

/-- R142, R117: the host's moves, its errors and its timeouts among them, leave the device, the chip and the bytes waiting at
the device as they are. -/
def Obligations.HostMovesLeaveTheDevice : Prop :=
  ∀ s t : State, hostStep s = .next t ∨ t = timerStep s →
    t.dev = s.dev ∧ t.chip = s.chip ∧ t.busLog = s.busLog ∧ t.link.h2d = s.link.h2d ∧ t.cfg = s.cfg

/-! ## Host session -/

/-- R120: the handshake sends its four requests in their fixed order, whatever the answers that let it go on, and takes the
name and the two capacities, low byte first, from them. That it then returns a result of its own, without a `nak_seen`, is the
model's choice (log 29). -/
def Obligations.HandshakeFixedOrder : Prop :=
  ∀ (s : State) (st1 st2 st3 st4 : Byte) (name : List Byte) (o0 o1 c0 c1 : Byte) (replies : List (Byte × List Byte)),
    s.host.sess = .opened → name.length = 16 →
    replies = [(st1, name), (st2, [o0, o1]), (st3, [c0, c1]), (st4, [])] → GoesOn s.cfg replies →
      Returns replies (hostGoto .hsName s) [.queryName, .queryOpbufSize, .querySerbufSize, .errorcntReset] .session
      ∧ (hostRun replies (hostGoto .hsName s)).2.host.name = name
      ∧ (hostRun replies (hostGoto .hsName s)).2.host.opbufCap = o0.setWidth 16 ||| (o1.setWidth 16 <<< 8)
      ∧ (hostRun replies (hostGoto .hsName s)).2.host.serbufCap = c0.setWidth 16 ||| (c1.setWidth 16 <<< 8)

/-- R118: with an open session a request's encoding is what is handed to the link, in order, and it is outstanding. Without
one R118 gives the step no effect, and that it is the fault `transactNotOpen` is the model's choice (log 13). -/
def Obligations.RequestsAreSentWhole : Prop :=
  ∀ (s : State) (p : Phase),
    s.host.phase = some p → s.host.sent = false →
      (s.host.sess ≠ .opened → hostStep s = .fault .transactNotOpen)
      ∧ (s.host.sess = .opened →
          hostStep s = .next { s with
            link := { s.link with wire := s.link.wire ++ encode s.cfg.opcodes (phaseRequest s.host p) }
            host := { s.host with sent := true } })

/-- R121, R122: a status byte other than `P_ACK`, `P_NAK` or not, is logged with the opcode sent and counted, whatever bytes
follow the response. Under `ProceedReported` the workflow then goes on as if acknowledged. Under `Fatal` the session aborts:
the log has the status and the protocol error (R141, and after them at most a failure to release the transport, R153), the
program ends with status 2, and no workflow or call goes on. That the abort leaves the bytes of requests still on their way
where they are is the model's choice (log 27). -/
def Obligations.NonAckStatusIsReported : Prop :=
  ∀ (s : State) (p : Phase) (op st : Byte) (payload extra : List Byte),
    s.link.d2h = st :: payload ++ extra → payload.length = payloadLength (phaseRequest s.host p) → st ≠ s.cfg.ack →
    op = opcodeByte s.cfg.opcodes (phaseRequest s.host p).opcode →
      (s.cfg.nakPolicy = .proceedReported →
        ∃ (env : Env) (late : List Byte),
          Drawn s.env env ∧ late <:+ extra
          ∧ takeResponse p s = advance p st payload
              { s with
                env := env
                link := { s.link with d2h := late }
                host := { s.host with log := s.host.log ++ [.status op st], nakCount := s.host.nakCount + 1 } })
      ∧ (s.cfg.nakPolicy = .fatal →
          ∃ (late : List Byte) (more : List LogEntry),
            late <:+ extra ∧ (more = [] ∨ more = [.releaseFailed])
            ∧ (takeResponse p s).link = { s.link with d2h := late }
            ∧ Drawn s.env (takeResponse p s).env
            ∧ (takeResponse p s).host = { s.host with
                sess := .aborted
                running := false
                calls := []
                phase := none
                sent := false
                log := s.host.log ++ .status op st :: .protocol op st :: more
                nakCount := s.host.nakCount + 1
                exit := some 2 })

/-- R118, R123: a whole response with status `P_ACK` is taken, whatever bytes follow it, of which only an ending may be left,
and the workflow goes on with its payload; nothing is counted. -/
def Obligations.AckResponseIsTaken : Prop :=
  ∀ (s : State) (p : Phase) (payload extra : List Byte),
    s.link.d2h = s.cfg.ack :: payload ++ extra → payload.length = payloadLength (phaseRequest s.host p) →
      ∃ (env : Env) (late : List Byte),
        Drawn s.env env ∧ late <:+ extra
        ∧ takeResponse p s
            = advance p s.cfg.ack payload { s with env := env, link := { s.link with d2h := late } }

/-- R118, R124, R141, R149 (c), R151: a timeout is fatal: the session aborts with no retry, the log records only the transport
error, with the opcode and fewer bytes than the response has (and after it at most a failure to release the transport, R153), no
status byte is decoded or counted, the program ends with exit status 1, no workflow or call goes on, and nothing is sent. How many
bytes have been received, that they are dropped, and that a beginning of the bytes on their way still arrives, is the model's
choice (log 9). -/
def Obligations.TimeoutAbortsTheSession : Prop :=
  ∀ (s : State) (p : Phase), s.host.phase = some p →
    ∃ (received : Nat) (more : List LogEntry) (wire : List Byte),
      received ≤ s.link.d2h.length
      ∧ received < 1 + payloadLength (phaseRequest s.host p)
      ∧ (more = [] ∨ more = [.releaseFailed])
      ∧ wire <+: s.link.wire
      ∧ Drawn s.env (timerStep s).env
      ∧ timerStep s = { s with
          env := (timerStep s).env
          link := { s.link with wire := wire, d2h := s.link.d2h.drop received }
          host := { s.host with
            sess := .aborted
            running := false
            calls := []
            phase := none
            sent := false
            log := s.host.log
              ++ .transport (some (opcodeByte s.cfg.opcodes (phaseRequest s.host p).opcode)) received :: more
            exit := some 1 } }

/-! ## Host orchestrator -/

/-- R130: a write with the default chunk size takes the least of the reported frame payload, the constant and the reported
opbuf capacity; where that is 0 it is a `HostParamError` and nothing is sent or staged. -/
def Obligations.ChunkSizeIsTheLeastBound : Prop :=
  ∀ (s : State) (a : Addr) (d : List Byte),
    (defaultChunk s ≤ s.host.serbufCap.toNat ∧ defaultChunk s ≤ s.cfg.chunkConst
      ∧ defaultChunk s ≤ s.host.opbufCap.toNat
      ∧ (defaultChunk s = s.host.serbufCap.toNat ∨ defaultChunk s = s.cfg.chunkConst
        ∨ defaultChunk s = s.host.opbufCap.toNat))
    ∧ (defaultChunk s = 0 → startCall (.write a d none) s = hostReturn (.paramError .chunk) s)
    ∧ (defaultChunk s ≠ 0 → (startCall (.write a d none) s).host.wChunk = defaultChunk s)

/-- R129, R134, R135, R131, R148: a length of 2^24 or more, and an explicit chunk size of 0, are refused before anything is
sent, the session left as it is. That a write is refused too where `w_chunk` is 0, whatever chunk size is given, and where a
chunk would hold 2^24 bytes (R127), is the model's reading (log 14). -/
def Obligations.LongLengthsAreParamErrors : Prop :=
  ∀ (s : State) (a : Addr) (n : Nat) (d : List Byte) (k : Option Nat),
    (2 ^ 24 ≤ n → startCall (.read a n) s = hostReturn (.paramError .len) s
      ∧ startCall (.erase a n) s = hostReturn (.paramError .len) s)
    ∧ (2 ^ 24 ≤ d.length → startCall (.verify a d) s = hostReturn (.paramError .len) s)
    ∧ startCall (.write a d (some 0)) s = hostReturn (.paramError .chunk) s
    ∧ (defaultChunk s = 0 → startCall (.write a d k) s = hostReturn (.paramError .chunk) s)
    ∧ (defaultChunk s ≠ 0 → 2 ^ 24 ≤ min n d.length →
        startCall (.write a d (some n)) s = hostReturn (.paramError .len) s)

/-- R131, R132, R133, R130: a write, by the default chunk size or by one given to it, sends an OPBUF_WRITEN and an OPBUF_EXEC
for each chunk and then one ERRORCNT_QUERY, whatever the answers that let it go on; it returns the counter that the last one
reports, low byte first, and whether any status was not `P_ACK`. The spec bounds no chunk size given; that a chunk must be
shorter than 2^24 bytes is R127's. -/
def Obligations.WriteSendsChunksThenCount : Prop :=
  ∀ (s : State) (a : Addr) (d : List Byte) (k : Option Nat) (size : Nat) (acks replies : List (Byte × List Byte))
    (st e0 e1 e2 e3 : Byte),
    s.host.sess = .opened → defaultChunk s ≠ 0 → size = k.getD (defaultChunk s) → size ≠ 0 →
    min size d.length < 2 ^ 24 →
    acks.length = (writeFrames a size d).length → (∀ q ∈ acks, q.2 = []) →
    replies = acks ++ [(st, [e0, e1, e2, e3])] → GoesOn s.cfg replies →
      Returns replies (startCall (.write a d k) s) (writeFrames a size d ++ [.errorcntQuery])
        (.write (e0.setWidth 32 ||| (e1.setWidth 32 <<< 8) ||| (e2.setWidth 32 <<< 16) ||| (e3.setWidth 32 <<< 24))
          (nakAmong s.cfg replies))

/-- R135: an erase writes 0xFF bytes by the default chunk size, queries the counter, and reads the region back, whatever the
answers that let it go on; it returns the counter, whether every byte read is 0xFF, and whether any status was not `P_ACK`. -/
def Obligations.EraseWritesThenBlankChecks : Prop :=
  ∀ (s : State) (a : Addr) (n : Nat) (acks replies : List (Byte × List Byte)) (st1 st2 e0 e1 e2 e3 : Byte)
    (cells : List Byte),
    s.host.sess = .opened → defaultChunk s ≠ 0 → n < 2 ^ 24 →
    acks.length = (writeFrames a (defaultChunk s) (List.replicate n 0xFF)).length → (∀ q ∈ acks, q.2 = []) →
    cells.length = n → replies = acks ++ [(st1, [e0, e1, e2, e3]), (st2, cells)] → GoesOn s.cfg replies →
      Returns replies (startCall (.erase a n) s)
        (writeFrames a (defaultChunk s) (List.replicate n 0xFF) ++ [.errorcntQuery, .readN a (BitVec.ofNat 24 n)])
        (.erase (e0.setWidth 32 ||| (e1.setWidth 32 <<< 8) ||| (e2.setWidth 32 <<< 16) ||| (e3.setWidth 32 <<< 24))
          (decide (∀ b ∈ cells, b = 0xFF)) (nakAmong s.cfg replies))

/-- R136, R137: the lock workflows stage their sequence and commit it, and query nothing, whatever the answers that let them
go on; they return whether either status was not `P_ACK`. -/
def Obligations.LockWorkflowsStageThenCommit : Prop :=
  ∀ (s : State) (st1 st2 : Byte) (replies : List (Byte × List Byte)),
    s.host.sess = .opened → replies = [(st1, []), (st2, [])] → GoesOn s.cfg replies →
      Returns replies (startCall .setLock s) [.opbufSetSdp, .opbufExec] (.lock (nakAmong s.cfg replies))
      ∧ Returns replies (startCall .clearLock s) [.opbufResetSdp, .opbufExec] (.lock (nakAmong s.cfg replies))

/-- R129, R134: a read and a verify send one READ_N each, whatever the answer that lets them go on; the read returns its bytes,
the verify whether they are the expected ones, and either whether the status was not `P_ACK`. -/
def Obligations.ReadAndVerifySendOneRead : Prop :=
  ∀ (s : State) (a : Addr) (n : Nat) (st : Byte) (bytes expected : List Byte),
    s.host.sess = .opened → n < 2 ^ 24 → bytes.length = n → expected.length = n → GoesOn s.cfg [(st, bytes)] →
      Returns [(st, bytes)] (startCall (.read a n) s) [.readN a (BitVec.ofNat 24 n)] (.read bytes (st != s.cfg.ack))
      ∧ Returns [(st, bytes)] (startCall (.verify a expected) s) [.readN a (BitVec.ofNat 24 n)]
          (.verify (decide (bytes = expected)) (st != s.cfg.ack))

/-- R116, R126: opening a session sets `sess` to OPEN and goes to the handshake, or fails, a `TransportError` with exit status 1;
closing sets `sess` to CLOSED, sends nothing and leaves the device as it is. That either outcome of opening can happen by a
choice and what success leaves of the bytes of an earlier session (log 11), that failure leaves both streams as they are
(log 27), and what Close does besides (log 21), is the model's choice. -/
def Obligations.SessionsOpenAndClose : Prop :=
  ∀ s : State,
    (∃ (env : Env) (late : List Byte),
      Drawn s.env env ∧ late <:+ s.link.d2h
      ∧ ((∃ more : List LogEntry, (more = [] ∨ more = [.releaseFailed])
          ∧ startCall .session s = { s with
              env := env
              host := { s.host with
                sess := .aborted, running := false, calls := [], phase := none, sent := false, exit := some 1,
                log := s.host.log ++ .transport none 0 :: more } })
        ∨ startCall .session s = { s with
            env := env
            link := { s.link with d2h := late }
            host := { s.host with sess := .opened, phase := some .hsName, sent := false } }))
    ∧ (∃ script, (startCall .session { s with env := { s.env with script := script } }).host.sess = .aborted)
    ∧ (∃ script, (startCall .session { s with env := { s.env with script := script } }).host.sess = .opened)
    ∧ startCall .close s = { s with
        host := { s.host with
          sess := .closed, phase := none, sent := false, results := s.host.results ++ [.closed] } }

/-- R163, R33, R151: a host program starts with `sess` CLOSED and nothing counted and leaves the device as it is, makes its
calls in order, and ends with status 0. How a program and its calls are given (log 12), that its start leaves both byte streams
as they are (log 24), and that its end leaves the session as it is (log 20), is the model's choice. -/
def Obligations.ProgramsStartAndEnd : Prop :=
  ∀ s : State,
    (∀ calls : List Call,
      startHost calls s = { s with host := (startHost calls s).host }
      ∧ (startHost calls s).host.sess = .closed
      ∧ (startHost calls s).host.nakCount = 0
      ∧ (startHost calls s).host.running = true
      ∧ (startHost calls s).host.calls = calls
      ∧ (startHost calls s).host.phase = none
      ∧ (startHost calls s).host.results = [])
    ∧ (∀ (calls : List Call) (rest : List Input), s.env.inputs = .startHost calls :: rest →
        outsideStep s = startHost calls { s with env := { s.env with inputs := rest } })
    ∧ (∀ (c : Call) (rest : List Call), s.host.phase = none → s.host.calls = c :: rest →
        hostStep s = .next (startCall c { s with host := { s.host with calls := rest } }))
    ∧ (s.host.phase = none → s.host.calls = [] →
        hostStep s = .next { s with host := { s.host with running := false, exit := some 0 } })

/-- R139 (1), (3): a write of `n` bytes with chunk size `k` sends exactly ⌈n / k⌉ pairs of an OPBUF_WRITEN and an OPBUF_EXEC, the
data of those OPBUF_WRITENs together being the data of the write, in order, and then one ERRORCNT_QUERY; so no trailing
OPBUF_EXEC. -/
def Obligations.WriteFrameCount : Prop :=
  ∀ (s : State) (a : Addr) (k : Nat) (d : List Byte) (acks replies : List (Byte × List Byte)) (last : Byte × List Byte),
    s.host.sess = .opened → defaultChunk s ≠ 0 → 1 ≤ k → min k d.length < 2 ^ 24 →
    acks.length = 2 * ((d.length + k - 1) / k) → (∀ q ∈ acks, q.2 = []) → last.2.length = 4 →
    replies = acks ++ [last] → GoesOn s.cfg replies →
      ∃ pairs : List (U24 × Addr × List Byte),
        pairs.length = (d.length + k - 1) / k
        ∧ pairs.flatMap (fun p => p.2.2) = d
        ∧ (hostRun replies (startCall (.write a d (some k)) s)).1
            = pairs.flatMap (fun p => [.opbufWriten p.1 p.2.1 p.2.2, .opbufExec]) ++ [.errorcntQuery]

/-- R138: a chunked write within both capacities, begun with an empty opbuf, is never refused: every request is
acknowledged, and the opbuf is empty at the end. -/
def Obligations.ChunkedWriteIsNeverRefused : Prop :=
  ∀ (s : State) (a : Addr) (d : List Byte) (k : Nat),
    1 ≤ k → k ≤ s.cfg.serbufCap.toNat → k ≤ s.cfg.opbufCap.toNat → s.dev.opbuf = [] →
      ∃ t, runRequests (writeFrames a k d) s = some t
        ∧ t.dev.opbuf = []
        ∧ t.link.d2h = s.link.d2h ++ List.replicate (writeFrames a k d).length s.cfg.ack

/-- R139 (2), R132: chunking is transparent to every chip: a chunked write leaves the chip, the bus cycles it has seen and
the error counter exactly as one conceptual drain of all the bytes in ascending order leaves them. -/
def Obligations.ChunkingIsTransparent : Prop :=
  ∀ (s : State) (a : Addr) (d : List Byte) (k : Nat),
    1 ≤ k → k ≤ s.cfg.serbufCap.toNat → k ≤ s.cfg.opbufCap.toNat → s.dev.opbuf = [] →
      ∃ t, runRequests (writeFrames a k d) s = some t
        ∧ t.chip = (drainFrom 0 (writeItems a d) s).chip
        ∧ t.busLog = (drainFrom 0 (writeItems a d) s).busLog
        ∧ t.dev.errcnt = (drainFrom 0 (writeItems a d) s).dev.errcnt
end

