-- ==== Sys2Proof/Laws/State.lean ====
section
/-! SUPPORT. What each small update of the state does to each field: one lemma per field, so that no proof unfolds a record
update. -/
namespace Sys2Proof.Machine

/-! ### send -/

@[simp] theorem send_cfg (bs : List Byte) (s : State) : (send bs s).cfg = s.cfg := rfl
@[simp] theorem send_dev (bs : List Byte) (s : State) : (send bs s).dev = s.dev := rfl
@[simp] theorem send_host (bs : List Byte) (s : State) : (send bs s).host = s.host := rfl
@[simp] theorem send_chip (bs : List Byte) (s : State) : (send bs s).chip = s.chip := rfl
@[simp] theorem send_busLog (bs : List Byte) (s : State) : (send bs s).busLog = s.busLog := rfl
@[simp] theorem send_env (bs : List Byte) (s : State) : (send bs s).env = s.env := rfl
@[simp] theorem send_link_wire (bs : List Byte) (s : State) : (send bs s).link.wire = s.link.wire := rfl
@[simp] theorem send_link_h2d (bs : List Byte) (s : State) : (send bs s).link.h2d = s.link.h2d := rfl
@[simp] theorem send_link_d2h (bs : List Byte) (s : State) : (send bs s).link.d2h = s.link.d2h ++ bs := rfl

/-! ### toIdle -/

@[simp] theorem toIdle_cfg (s : State) : (toIdle s).cfg = s.cfg := rfl
@[simp] theorem toIdle_link (s : State) : (toIdle s).link = s.link := rfl
@[simp] theorem toIdle_host (s : State) : (toIdle s).host = s.host := rfl
@[simp] theorem toIdle_chip (s : State) : (toIdle s).chip = s.chip := rfl
@[simp] theorem toIdle_busLog (s : State) : (toIdle s).busLog = s.busLog := rfl
@[simp] theorem toIdle_env (s : State) : (toIdle s).env = s.env := rfl
@[simp] theorem toIdle_dev_fsm (s : State) : (toIdle s).dev.fsm = .idle := rfl
@[simp] theorem toIdle_dev_rxOp (s : State) : (toIdle s).dev.rxOp = s.dev.rxOp := rfl
@[simp] theorem toIdle_dev_rxHdr (s : State) : (toIdle s).dev.rxHdr = s.dev.rxHdr := rfl
@[simp] theorem toIdle_dev_rxLen (s : State) : (toIdle s).dev.rxLen = s.dev.rxLen := rfl
@[simp] theorem toIdle_dev_rxAddr (s : State) : (toIdle s).dev.rxAddr = s.dev.rxAddr := rfl
@[simp] theorem toIdle_dev_rxData (s : State) : (toIdle s).dev.rxData = s.dev.rxData := rfl
@[simp] theorem toIdle_dev_rxGot (s : State) : (toIdle s).dev.rxGot = s.dev.rxGot := rfl
@[simp] theorem toIdle_dev_opbuf (s : State) : (toIdle s).dev.opbuf = s.dev.opbuf := rfl
@[simp] theorem toIdle_dev_errcnt (s : State) : (toIdle s).dev.errcnt = s.dev.errcnt := rfl
@[simp] theorem toIdle_dev_bus (s : State) : (toIdle s).dev.bus = s.dev.bus := rfl
@[simp] theorem toIdle_dev_pollCnt (s : State) : (toIdle s).dev.pollCnt = s.dev.pollCnt := rfl
@[simp] theorem toIdle_dev_execIdx (s : State) : (toIdle s).dev.execIdx = s.dev.execIdx := rfl

/-! ### stage -/

@[simp] theorem stage_cfg (items : List Item) (s : State) : (stage items s).cfg = s.cfg := rfl
@[simp] theorem stage_link (items : List Item) (s : State) : (stage items s).link = s.link := rfl
@[simp] theorem stage_host (items : List Item) (s : State) : (stage items s).host = s.host := rfl
@[simp] theorem stage_chip (items : List Item) (s : State) : (stage items s).chip = s.chip := rfl
@[simp] theorem stage_busLog (items : List Item) (s : State) : (stage items s).busLog = s.busLog := rfl
@[simp] theorem stage_env (items : List Item) (s : State) : (stage items s).env = s.env := rfl
@[simp] theorem stage_dev_fsm (items : List Item) (s : State) : (stage items s).dev.fsm = s.dev.fsm := rfl
@[simp] theorem stage_dev_rxOp (items : List Item) (s : State) : (stage items s).dev.rxOp = s.dev.rxOp := rfl
@[simp] theorem stage_dev_rxHdr (items : List Item) (s : State) : (stage items s).dev.rxHdr = s.dev.rxHdr := rfl
@[simp] theorem stage_dev_rxLen (items : List Item) (s : State) : (stage items s).dev.rxLen = s.dev.rxLen := rfl
@[simp] theorem stage_dev_rxAddr (items : List Item) (s : State) : (stage items s).dev.rxAddr = s.dev.rxAddr := rfl
@[simp] theorem stage_dev_rxData (items : List Item) (s : State) : (stage items s).dev.rxData = s.dev.rxData := rfl
@[simp] theorem stage_dev_rxGot (items : List Item) (s : State) : (stage items s).dev.rxGot = s.dev.rxGot := rfl
@[simp] theorem stage_dev_opbuf (items : List Item) (s : State) : (stage items s).dev.opbuf = s.dev.opbuf ++ items := rfl
@[simp] theorem stage_dev_errcnt (items : List Item) (s : State) : (stage items s).dev.errcnt = s.dev.errcnt := rfl
@[simp] theorem stage_dev_bus (items : List Item) (s : State) : (stage items s).dev.bus = s.dev.bus := rfl
@[simp] theorem stage_dev_pollCnt (items : List Item) (s : State) : (stage items s).dev.pollCnt = s.dev.pollCnt := rfl
@[simp] theorem stage_dev_execIdx (items : List Item) (s : State) : (stage items s).dev.execIdx = s.dev.execIdx := rfl

/-! ### clearOpbuf -/

@[simp] theorem clearOpbuf_cfg (s : State) : (clearOpbuf s).cfg = s.cfg := rfl
@[simp] theorem clearOpbuf_link (s : State) : (clearOpbuf s).link = s.link := rfl
@[simp] theorem clearOpbuf_host (s : State) : (clearOpbuf s).host = s.host := rfl
@[simp] theorem clearOpbuf_chip (s : State) : (clearOpbuf s).chip = s.chip := rfl
@[simp] theorem clearOpbuf_busLog (s : State) : (clearOpbuf s).busLog = s.busLog := rfl
@[simp] theorem clearOpbuf_env (s : State) : (clearOpbuf s).env = s.env := rfl
@[simp] theorem clearOpbuf_dev_fsm (s : State) : (clearOpbuf s).dev.fsm = s.dev.fsm := rfl
@[simp] theorem clearOpbuf_dev_rxOp (s : State) : (clearOpbuf s).dev.rxOp = s.dev.rxOp := rfl
@[simp] theorem clearOpbuf_dev_rxHdr (s : State) : (clearOpbuf s).dev.rxHdr = s.dev.rxHdr := rfl
@[simp] theorem clearOpbuf_dev_rxLen (s : State) : (clearOpbuf s).dev.rxLen = s.dev.rxLen := rfl
@[simp] theorem clearOpbuf_dev_rxAddr (s : State) : (clearOpbuf s).dev.rxAddr = s.dev.rxAddr := rfl
@[simp] theorem clearOpbuf_dev_rxData (s : State) : (clearOpbuf s).dev.rxData = s.dev.rxData := rfl
@[simp] theorem clearOpbuf_dev_rxGot (s : State) : (clearOpbuf s).dev.rxGot = s.dev.rxGot := rfl
@[simp] theorem clearOpbuf_dev_opbuf (s : State) : (clearOpbuf s).dev.opbuf = [] := rfl
@[simp] theorem clearOpbuf_dev_errcnt (s : State) : (clearOpbuf s).dev.errcnt = s.dev.errcnt := rfl
@[simp] theorem clearOpbuf_dev_bus (s : State) : (clearOpbuf s).dev.bus = s.dev.bus := rfl
@[simp] theorem clearOpbuf_dev_pollCnt (s : State) : (clearOpbuf s).dev.pollCnt = s.dev.pollCnt := rfl
@[simp] theorem clearOpbuf_dev_execIdx (s : State) : (clearOpbuf s).dev.execIdx = s.dev.execIdx := rfl

/-! ### setErrcnt -/

@[simp] theorem setErrcnt_cfg (v : U32) (s : State) : (setErrcnt v s).cfg = s.cfg := rfl
@[simp] theorem setErrcnt_link (v : U32) (s : State) : (setErrcnt v s).link = s.link := rfl
@[simp] theorem setErrcnt_host (v : U32) (s : State) : (setErrcnt v s).host = s.host := rfl
@[simp] theorem setErrcnt_chip (v : U32) (s : State) : (setErrcnt v s).chip = s.chip := rfl
@[simp] theorem setErrcnt_busLog (v : U32) (s : State) : (setErrcnt v s).busLog = s.busLog := rfl
@[simp] theorem setErrcnt_env (v : U32) (s : State) : (setErrcnt v s).env = s.env := rfl
@[simp] theorem setErrcnt_dev_fsm (v : U32) (s : State) : (setErrcnt v s).dev.fsm = s.dev.fsm := rfl
@[simp] theorem setErrcnt_dev_rxOp (v : U32) (s : State) : (setErrcnt v s).dev.rxOp = s.dev.rxOp := rfl
@[simp] theorem setErrcnt_dev_rxHdr (v : U32) (s : State) : (setErrcnt v s).dev.rxHdr = s.dev.rxHdr := rfl
@[simp] theorem setErrcnt_dev_rxLen (v : U32) (s : State) : (setErrcnt v s).dev.rxLen = s.dev.rxLen := rfl
@[simp] theorem setErrcnt_dev_rxAddr (v : U32) (s : State) : (setErrcnt v s).dev.rxAddr = s.dev.rxAddr := rfl
@[simp] theorem setErrcnt_dev_rxData (v : U32) (s : State) : (setErrcnt v s).dev.rxData = s.dev.rxData := rfl
@[simp] theorem setErrcnt_dev_rxGot (v : U32) (s : State) : (setErrcnt v s).dev.rxGot = s.dev.rxGot := rfl
@[simp] theorem setErrcnt_dev_opbuf (v : U32) (s : State) : (setErrcnt v s).dev.opbuf = s.dev.opbuf := rfl
@[simp] theorem setErrcnt_dev_errcnt (v : U32) (s : State) : (setErrcnt v s).dev.errcnt = v := rfl
@[simp] theorem setErrcnt_dev_bus (v : U32) (s : State) : (setErrcnt v s).dev.bus = s.dev.bus := rfl
@[simp] theorem setErrcnt_dev_pollCnt (v : U32) (s : State) : (setErrcnt v s).dev.pollCnt = s.dev.pollCnt := rfl
@[simp] theorem setErrcnt_dev_execIdx (v : U32) (s : State) : (setErrcnt v s).dev.execIdx = s.dev.execIdx := rfl

/-! ### setPollCnt -/

@[simp] theorem setPollCnt_cfg (n : Nat) (s : State) : (setPollCnt n s).cfg = s.cfg := rfl
@[simp] theorem setPollCnt_link (n : Nat) (s : State) : (setPollCnt n s).link = s.link := rfl
@[simp] theorem setPollCnt_host (n : Nat) (s : State) : (setPollCnt n s).host = s.host := rfl
@[simp] theorem setPollCnt_chip (n : Nat) (s : State) : (setPollCnt n s).chip = s.chip := rfl
@[simp] theorem setPollCnt_busLog (n : Nat) (s : State) : (setPollCnt n s).busLog = s.busLog := rfl
@[simp] theorem setPollCnt_env (n : Nat) (s : State) : (setPollCnt n s).env = s.env := rfl
@[simp] theorem setPollCnt_dev_fsm (n : Nat) (s : State) : (setPollCnt n s).dev.fsm = s.dev.fsm := rfl
@[simp] theorem setPollCnt_dev_rxOp (n : Nat) (s : State) : (setPollCnt n s).dev.rxOp = s.dev.rxOp := rfl
@[simp] theorem setPollCnt_dev_rxHdr (n : Nat) (s : State) : (setPollCnt n s).dev.rxHdr = s.dev.rxHdr := rfl
@[simp] theorem setPollCnt_dev_rxLen (n : Nat) (s : State) : (setPollCnt n s).dev.rxLen = s.dev.rxLen := rfl
@[simp] theorem setPollCnt_dev_rxAddr (n : Nat) (s : State) : (setPollCnt n s).dev.rxAddr = s.dev.rxAddr := rfl
@[simp] theorem setPollCnt_dev_rxData (n : Nat) (s : State) : (setPollCnt n s).dev.rxData = s.dev.rxData := rfl
@[simp] theorem setPollCnt_dev_rxGot (n : Nat) (s : State) : (setPollCnt n s).dev.rxGot = s.dev.rxGot := rfl
@[simp] theorem setPollCnt_dev_opbuf (n : Nat) (s : State) : (setPollCnt n s).dev.opbuf = s.dev.opbuf := rfl
@[simp] theorem setPollCnt_dev_errcnt (n : Nat) (s : State) : (setPollCnt n s).dev.errcnt = s.dev.errcnt := rfl
@[simp] theorem setPollCnt_dev_bus (n : Nat) (s : State) : (setPollCnt n s).dev.bus = s.dev.bus := rfl
@[simp] theorem setPollCnt_dev_pollCnt (n : Nat) (s : State) : (setPollCnt n s).dev.pollCnt = n := rfl
@[simp] theorem setPollCnt_dev_execIdx (n : Nat) (s : State) : (setPollCnt n s).dev.execIdx = s.dev.execIdx := rfl

/-! ### setExecIdx -/

@[simp] theorem setExecIdx_cfg (n : Nat) (s : State) : (setExecIdx n s).cfg = s.cfg := rfl
@[simp] theorem setExecIdx_link (n : Nat) (s : State) : (setExecIdx n s).link = s.link := rfl
@[simp] theorem setExecIdx_host (n : Nat) (s : State) : (setExecIdx n s).host = s.host := rfl
@[simp] theorem setExecIdx_chip (n : Nat) (s : State) : (setExecIdx n s).chip = s.chip := rfl
@[simp] theorem setExecIdx_busLog (n : Nat) (s : State) : (setExecIdx n s).busLog = s.busLog := rfl
@[simp] theorem setExecIdx_env (n : Nat) (s : State) : (setExecIdx n s).env = s.env := rfl
@[simp] theorem setExecIdx_dev_fsm (n : Nat) (s : State) : (setExecIdx n s).dev.fsm = s.dev.fsm := rfl
@[simp] theorem setExecIdx_dev_rxOp (n : Nat) (s : State) : (setExecIdx n s).dev.rxOp = s.dev.rxOp := rfl
@[simp] theorem setExecIdx_dev_rxHdr (n : Nat) (s : State) : (setExecIdx n s).dev.rxHdr = s.dev.rxHdr := rfl
@[simp] theorem setExecIdx_dev_rxLen (n : Nat) (s : State) : (setExecIdx n s).dev.rxLen = s.dev.rxLen := rfl
@[simp] theorem setExecIdx_dev_rxAddr (n : Nat) (s : State) : (setExecIdx n s).dev.rxAddr = s.dev.rxAddr := rfl
@[simp] theorem setExecIdx_dev_rxData (n : Nat) (s : State) : (setExecIdx n s).dev.rxData = s.dev.rxData := rfl
@[simp] theorem setExecIdx_dev_rxGot (n : Nat) (s : State) : (setExecIdx n s).dev.rxGot = s.dev.rxGot := rfl
@[simp] theorem setExecIdx_dev_opbuf (n : Nat) (s : State) : (setExecIdx n s).dev.opbuf = s.dev.opbuf := rfl
@[simp] theorem setExecIdx_dev_errcnt (n : Nat) (s : State) : (setExecIdx n s).dev.errcnt = s.dev.errcnt := rfl
@[simp] theorem setExecIdx_dev_bus (n : Nat) (s : State) : (setExecIdx n s).dev.bus = s.dev.bus := rfl
@[simp] theorem setExecIdx_dev_pollCnt (n : Nat) (s : State) : (setExecIdx n s).dev.pollCnt = s.dev.pollCnt := rfl
@[simp] theorem setExecIdx_dev_execIdx (n : Nat) (s : State) : (setExecIdx n s).dev.execIdx = n := rfl

/-! ### hostReturn -/

@[simp] theorem hostReturn_cfg (r : Result) (s : State) : (hostReturn r s).cfg = s.cfg := rfl
@[simp] theorem hostReturn_dev (r : Result) (s : State) : (hostReturn r s).dev = s.dev := rfl
@[simp] theorem hostReturn_link (r : Result) (s : State) : (hostReturn r s).link = s.link := rfl
@[simp] theorem hostReturn_chip (r : Result) (s : State) : (hostReturn r s).chip = s.chip := rfl
@[simp] theorem hostReturn_busLog (r : Result) (s : State) : (hostReturn r s).busLog = s.busLog := rfl
@[simp] theorem hostReturn_env (r : Result) (s : State) : (hostReturn r s).env = s.env := rfl
@[simp] theorem hostReturn_host_sess (r : Result) (s : State) : (hostReturn r s).host.sess = s.host.sess := rfl
@[simp] theorem hostReturn_host_name (r : Result) (s : State) : (hostReturn r s).host.name = s.host.name := rfl
@[simp] theorem hostReturn_host_opbufCap (r : Result) (s : State) : (hostReturn r s).host.opbufCap = s.host.opbufCap := rfl
@[simp] theorem hostReturn_host_serbufCap (r : Result) (s : State) : (hostReturn r s).host.serbufCap = s.host.serbufCap := rfl
@[simp] theorem hostReturn_host_nakCount (r : Result) (s : State) : (hostReturn r s).host.nakCount = s.host.nakCount := rfl
@[simp] theorem hostReturn_host_wOff (r : Result) (s : State) : (hostReturn r s).host.wOff = s.host.wOff := rfl
@[simp] theorem hostReturn_host_wStaged (r : Result) (s : State) : (hostReturn r s).host.wStaged = s.host.wStaged := rfl
@[simp] theorem hostReturn_host_wChunk (r : Result) (s : State) : (hostReturn r s).host.wChunk = s.host.wChunk := rfl
@[simp] theorem hostReturn_host_running (r : Result) (s : State) : (hostReturn r s).host.running = s.host.running := rfl
@[simp] theorem hostReturn_host_calls (r : Result) (s : State) : (hostReturn r s).host.calls = s.host.calls := rfl
@[simp] theorem hostReturn_host_phase (r : Result) (s : State) : (hostReturn r s).host.phase = none := rfl
@[simp] theorem hostReturn_host_sent (r : Result) (s : State) : (hostReturn r s).host.sent = false := rfl
@[simp] theorem hostReturn_host_results (r : Result) (s : State) : (hostReturn r s).host.results = s.host.results ++ [r] := rfl
@[simp] theorem hostReturn_host_log (r : Result) (s : State) : (hostReturn r s).host.log = s.host.log := rfl
@[simp] theorem hostReturn_host_exit (r : Result) (s : State) : (hostReturn r s).host.exit = s.host.exit := rfl

/-! ### hostGoto -/

@[simp] theorem hostGoto_cfg (p : Phase) (s : State) : (hostGoto p s).cfg = s.cfg := rfl
@[simp] theorem hostGoto_dev (p : Phase) (s : State) : (hostGoto p s).dev = s.dev := rfl
@[simp] theorem hostGoto_link (p : Phase) (s : State) : (hostGoto p s).link = s.link := rfl
@[simp] theorem hostGoto_chip (p : Phase) (s : State) : (hostGoto p s).chip = s.chip := rfl
@[simp] theorem hostGoto_busLog (p : Phase) (s : State) : (hostGoto p s).busLog = s.busLog := rfl
@[simp] theorem hostGoto_env (p : Phase) (s : State) : (hostGoto p s).env = s.env := rfl
@[simp] theorem hostGoto_host_sess (p : Phase) (s : State) : (hostGoto p s).host.sess = s.host.sess := rfl
@[simp] theorem hostGoto_host_name (p : Phase) (s : State) : (hostGoto p s).host.name = s.host.name := rfl
@[simp] theorem hostGoto_host_opbufCap (p : Phase) (s : State) : (hostGoto p s).host.opbufCap = s.host.opbufCap := rfl
@[simp] theorem hostGoto_host_serbufCap (p : Phase) (s : State) : (hostGoto p s).host.serbufCap = s.host.serbufCap := rfl
@[simp] theorem hostGoto_host_nakCount (p : Phase) (s : State) : (hostGoto p s).host.nakCount = s.host.nakCount := rfl
@[simp] theorem hostGoto_host_wOff (p : Phase) (s : State) : (hostGoto p s).host.wOff = s.host.wOff := rfl
@[simp] theorem hostGoto_host_wStaged (p : Phase) (s : State) : (hostGoto p s).host.wStaged = s.host.wStaged := rfl
@[simp] theorem hostGoto_host_wChunk (p : Phase) (s : State) : (hostGoto p s).host.wChunk = s.host.wChunk := rfl
@[simp] theorem hostGoto_host_running (p : Phase) (s : State) : (hostGoto p s).host.running = s.host.running := rfl
@[simp] theorem hostGoto_host_calls (p : Phase) (s : State) : (hostGoto p s).host.calls = s.host.calls := rfl
@[simp] theorem hostGoto_host_phase (p : Phase) (s : State) : (hostGoto p s).host.phase = some p := rfl
@[simp] theorem hostGoto_host_sent (p : Phase) (s : State) : (hostGoto p s).host.sent = false := rfl
@[simp] theorem hostGoto_host_results (p : Phase) (s : State) : (hostGoto p s).host.results = s.host.results := rfl
@[simp] theorem hostGoto_host_log (p : Phase) (s : State) : (hostGoto p s).host.log = s.host.log := rfl
@[simp] theorem hostGoto_host_exit (p : Phase) (s : State) : (hostGoto p s).host.exit = s.host.exit := rfl

/-! ### hostExit -/

@[simp] theorem hostExit_cfg (s : State) : (hostExit s).cfg = s.cfg := rfl
@[simp] theorem hostExit_dev (s : State) : (hostExit s).dev = s.dev := rfl
@[simp] theorem hostExit_link (s : State) : (hostExit s).link = s.link := rfl
@[simp] theorem hostExit_chip (s : State) : (hostExit s).chip = s.chip := rfl
@[simp] theorem hostExit_busLog (s : State) : (hostExit s).busLog = s.busLog := rfl
@[simp] theorem hostExit_env (s : State) : (hostExit s).env = s.env := rfl
@[simp] theorem hostExit_host_sess (s : State) : (hostExit s).host.sess = s.host.sess := rfl
@[simp] theorem hostExit_host_name (s : State) : (hostExit s).host.name = s.host.name := rfl
@[simp] theorem hostExit_host_opbufCap (s : State) : (hostExit s).host.opbufCap = s.host.opbufCap := rfl
@[simp] theorem hostExit_host_serbufCap (s : State) : (hostExit s).host.serbufCap = s.host.serbufCap := rfl
@[simp] theorem hostExit_host_nakCount (s : State) : (hostExit s).host.nakCount = s.host.nakCount := rfl
@[simp] theorem hostExit_host_wOff (s : State) : (hostExit s).host.wOff = s.host.wOff := rfl
@[simp] theorem hostExit_host_wStaged (s : State) : (hostExit s).host.wStaged = s.host.wStaged := rfl
@[simp] theorem hostExit_host_wChunk (s : State) : (hostExit s).host.wChunk = s.host.wChunk := rfl
@[simp] theorem hostExit_host_running (s : State) : (hostExit s).host.running = false := rfl
@[simp] theorem hostExit_host_calls (s : State) : (hostExit s).host.calls = s.host.calls := rfl
@[simp] theorem hostExit_host_phase (s : State) : (hostExit s).host.phase = s.host.phase := rfl
@[simp] theorem hostExit_host_sent (s : State) : (hostExit s).host.sent = s.host.sent := rfl
@[simp] theorem hostExit_host_results (s : State) : (hostExit s).host.results = s.host.results := rfl
@[simp] theorem hostExit_host_log (s : State) : (hostExit s).host.log = s.host.log := rfl
@[simp] theorem hostExit_host_exit (s : State) : (hostExit s).host.exit = some 0 := rfl

/-! ### enqueue -/

@[simp] theorem enqueue_cfg (b : Byte) (s : State) : (enqueue b s).cfg = s.cfg := rfl
@[simp] theorem enqueue_dev (b : Byte) (s : State) : (enqueue b s).dev = s.dev := rfl
@[simp] theorem enqueue_host (b : Byte) (s : State) : (enqueue b s).host = s.host := rfl
@[simp] theorem enqueue_chip (b : Byte) (s : State) : (enqueue b s).chip = s.chip := rfl
@[simp] theorem enqueue_busLog (b : Byte) (s : State) : (enqueue b s).busLog = s.busLog := rfl
@[simp] theorem enqueue_env (b : Byte) (s : State) : (enqueue b s).env = s.env := rfl
@[simp] theorem enqueue_link_wire (b : Byte) (s : State) : (enqueue b s).link.wire = s.link.wire := rfl
@[simp] theorem enqueue_link_h2d (b : Byte) (s : State) : (enqueue b s).link.h2d = s.link.h2d ++ [b] := rfl
@[simp] theorem enqueue_link_d2h (b : Byte) (s : State) : (enqueue b s).link.d2h = s.link.d2h := rfl

/-! ### countStatus -/

@[simp] theorem countStatus_cfg (opcode st : Byte) (s : State) : (countStatus opcode st s).cfg = s.cfg := rfl
@[simp] theorem countStatus_dev (opcode st : Byte) (s : State) : (countStatus opcode st s).dev = s.dev := rfl
@[simp] theorem countStatus_link (opcode st : Byte) (s : State) : (countStatus opcode st s).link = s.link := rfl
@[simp] theorem countStatus_chip (opcode st : Byte) (s : State) : (countStatus opcode st s).chip = s.chip := rfl
@[simp] theorem countStatus_busLog (opcode st : Byte) (s : State) : (countStatus opcode st s).busLog = s.busLog := rfl
@[simp] theorem countStatus_env (opcode st : Byte) (s : State) : (countStatus opcode st s).env = s.env := rfl
@[simp] theorem countStatus_host_sess (opcode st : Byte) (s : State) : (countStatus opcode st s).host.sess = s.host.sess := rfl
@[simp] theorem countStatus_host_name (opcode st : Byte) (s : State) : (countStatus opcode st s).host.name = s.host.name := rfl
@[simp] theorem countStatus_host_opbufCap (opcode st : Byte) (s : State) : (countStatus opcode st s).host.opbufCap = s.host.opbufCap := rfl
@[simp] theorem countStatus_host_serbufCap (opcode st : Byte) (s : State) : (countStatus opcode st s).host.serbufCap = s.host.serbufCap := rfl
@[simp] theorem countStatus_host_nakCount (opcode st : Byte) (s : State) : (countStatus opcode st s).host.nakCount = s.host.nakCount + 1 := rfl
@[simp] theorem countStatus_host_wOff (opcode st : Byte) (s : State) : (countStatus opcode st s).host.wOff = s.host.wOff := rfl
@[simp] theorem countStatus_host_wStaged (opcode st : Byte) (s : State) : (countStatus opcode st s).host.wStaged = s.host.wStaged := rfl
@[simp] theorem countStatus_host_wChunk (opcode st : Byte) (s : State) : (countStatus opcode st s).host.wChunk = s.host.wChunk := rfl
@[simp] theorem countStatus_host_running (opcode st : Byte) (s : State) : (countStatus opcode st s).host.running = s.host.running := rfl
@[simp] theorem countStatus_host_calls (opcode st : Byte) (s : State) : (countStatus opcode st s).host.calls = s.host.calls := rfl
@[simp] theorem countStatus_host_phase (opcode st : Byte) (s : State) : (countStatus opcode st s).host.phase = s.host.phase := rfl
@[simp] theorem countStatus_host_sent (opcode st : Byte) (s : State) : (countStatus opcode st s).host.sent = s.host.sent := rfl
@[simp] theorem countStatus_host_results (opcode st : Byte) (s : State) : (countStatus opcode st s).host.results = s.host.results := rfl
@[simp] theorem countStatus_host_log (opcode st : Byte) (s : State) : (countStatus opcode st s).host.log = s.host.log ++ [.status opcode st] := rfl
@[simp] theorem countStatus_host_exit (opcode st : Byte) (s : State) : (countStatus opcode st s).host.exit = s.host.exit := rfl

/-! ### Free choices touch the environment only -/

@[simp] theorem draw_cfg (s : State) : (draw s).2.cfg = s.cfg := by unfold draw; split <;> rfl
@[simp] theorem draw_dev (s : State) : (draw s).2.dev = s.dev := by unfold draw; split <;> rfl
@[simp] theorem draw_link (s : State) : (draw s).2.link = s.link := by unfold draw; split <;> rfl
@[simp] theorem draw_host (s : State) : (draw s).2.host = s.host := by unfold draw; split <;> rfl
@[simp] theorem draw_chip (s : State) : (draw s).2.chip = s.chip := by unfold draw; split <;> rfl
@[simp] theorem draw_busLog (s : State) : (draw s).2.busLog = s.busLog := by unfold draw; split <;> rfl
@[simp] theorem draw_inputs (s : State) : (draw s).2.env.inputs = s.env.inputs := by unfold draw; split <;> rfl
@[simp] theorem drawBelow_state (n : Nat) (s : State) : (drawBelow n s).2 = (draw s).2 := rfl
@[simp] theorem drawBool_state (s : State) : (drawBool s).2 = (draw s).2 := rfl

/-- A free choice among `n` values is below `n`. -/
theorem drawBelow_lt (n : Nat) (hn : 0 < n) (s : State) : (drawBelow n s).1 < n := Nat.mod_lt _ hn

/-- A prescribed choice is the one made. -/
theorem draw_scripted (c : Nat) (rest : List Nat) (s : State) (h : s.env.script = c :: rest) :
    draw s = (c, { s with env := { s.env with script := rest } }) := by unfold draw; rw [h]

/-! ### The host's error handler -/

@[simp] theorem hostFatal_cfg (c : ErrorClass) (e : LogEntry) (s : State) : (hostFatal c e s).cfg = s.cfg := by
  simp [hostFatal]
@[simp] theorem hostFatal_dev (c : ErrorClass) (e : LogEntry) (s : State) : (hostFatal c e s).dev = s.dev := by
  simp [hostFatal]
@[simp] theorem hostFatal_link (c : ErrorClass) (e : LogEntry) (s : State) : (hostFatal c e s).link = s.link := by
  simp [hostFatal]
@[simp] theorem hostFatal_chip (c : ErrorClass) (e : LogEntry) (s : State) : (hostFatal c e s).chip = s.chip := by
  simp [hostFatal]
@[simp] theorem hostFatal_busLog (c : ErrorClass) (e : LogEntry) (s : State) :
    (hostFatal c e s).busLog = s.busLog := by simp [hostFatal]

/-! ### The response -/

/-- A response changes the stream to the host and `dev_state`, and nothing else. -/
theorem respond_eq (ok : Bool) (payload : List Byte) (s : State) :
    respond ok payload s = answered (statusByte s.cfg ok :: payload) s := rfl

/-- A rejection is the status byte `P_NAK` alone, whatever the cause (R145, R147). -/
theorem rejectRequest_eq (cause : NakCause) (s : State) : rejectRequest cause s = answered [s.cfg.nak] s := rfl

end Sys2Proof.Machine
end

