-- ==== Sys2Proof/Laws/Driver.lean ====
section
/-! SUPPORT. What the driver's operations do, said once each: their equations, and their frames. -/
namespace Sys2Proof.Machine

/-- `DrvRead` in one equation (R83): the chip's answer, one legal read cycle, and the bus idle afterwards with the address
presented. -/
theorem drvRead_eq (a : Addr) (s : State) :
    drvRead a s =
      ((chipRead s.busLog a s.chip).1,
        { s with
          dev := { s.dev with bus := { s.dev.bus with addr := a, drive := false, oe := false, ce := false } }
          chip := (chipRead s.busLog a s.chip).2
          busLog := readCycleAt a (chipRead s.busLog a s.chip).1 :: s.busLog }) := by
  simp only [drvRead, setChipEnable, releaseDataBus, setOutputEnable, setAddress, readDataBus, logCycle, readCycleAt]

/-- `DrvFastWrite` in one equation (R87): one legal write cycle, and the bus idle afterwards. -/
theorem drvFastWrite_eq (a : Addr) (v : Byte) (s : State) :
    drvFastWrite a v s =
      { s with
        dev := { s.dev with bus := { addr := a, dout := v, drive := false, oe := false, we := false, ce := false } }
        chip := chipWrite s.cfg a v s.chip
        busLog := writeCycleAt a v :: s.busLog } := by
  simp only [drvFastWrite, writeCycle, pulseWriteEnable, setWriteEnable, logCycle, releaseDataBus, setAddress,
    writeDataBus, setOutputEnable, setChipEnable, writeCycleAt]

/-- `WriteCycle` with the chip enabled, in one equation (R86). -/
theorem writeCycle_eq (a : Addr) (v : Byte) (s : State) (h : s.dev.bus.ce = true) :
    writeCycle a v s =
      { s with
        dev := { s.dev with bus := { addr := a, dout := v, drive := false, oe := false, we := false, ce := true } }
        chip := chipWrite s.cfg a v s.chip
        busLog := writeCycleAt a v :: s.busLog } := by
  simp only [writeCycle, pulseWriteEnable, setWriteEnable, logCycle, releaseDataBus, setAddress, writeDataBus,
    setOutputEnable, writeCycleAt, h]

/-- One polling sample, in one equation (R88). -/
theorem pollSample_eq (s : State) :
    pollSample s =
      ((chipRead s.busLog s.dev.bus.addr s.chip).1,
        { s with
          dev := { s.dev with bus := { s.dev.bus with oe := false }, pollCnt := s.dev.pollCnt + 1 }
          chip := (chipRead s.busLog s.dev.bus.addr s.chip).2
          busLog :=
            { kind := .read, addr := s.dev.bus.addr, data := (chipRead s.busLog s.dev.bus.addr s.chip).1, oe := true,
              ce := s.dev.bus.ce, drive := s.dev.bus.drive } :: s.busLog }) := by
  simp only [pollSample, setPollCnt, setOutputEnable, readDataBus, logCycle]

/-! ## Frames -/

theorem DriverFrame.refl (s : State) : DriverFrame s s := rfl

theorem DriverFrame.trans {s t u : State} (h1 : DriverFrame s t) (h2 : DriverFrame t u) : DriverFrame s u := by
  unfold DriverFrame at *
  rw [h2, h1]

/-- The polling loop changes nothing outside the driver's own state. -/
theorem pollLoop_frame (v : Byte) (left : Nat) (s : State) : DriverFrame s (pollLoop v left s) := by
  induction left generalizing s with
  | zero => rfl
  | succ n ih =>
    have h1 : DriverFrame s (pollSample s).2 := by rw [pollSample_eq]; rfl
    unfold pollLoop
    split
    · exact h1.trans rfl
    · exact h1.trans (ih _)

/-- A performed item changes nothing outside the driver's own state. -/
theorem performItem_frame (it : Item) (s : State) : DriverFrame s (performItem it s) := by
  unfold performItem
  split
  · have h1 : DriverFrame s (setPollCnt 0 (writeCycle it.addr it.value (setChipEnable true s))) := by
      rw [writeCycle_eq _ _ _ rfl]; rfl
    exact h1.trans (pollLoop_frame _ _ _)
  · rw [drvFastWrite_eq]; rfl

/-- The drain changes nothing outside the driver's own state. -/
theorem drainFrom_frame (i : Nat) (items : List Item) (s : State) : DriverFrame s (drainFrom i items s) := by
  induction items generalizing i s with
  | nil => rfl
  | cons it rest ih =>
    have h1 : DriverFrame s (setExecIdx i s) := rfl
    exact (h1.trans (performItem_frame it _)).trans (ih _ _)

/-- The read loop sends exactly `left` bytes, and changes the bus, the chip and the record of bus cycles besides. -/
theorem readLoop_frame (addr : Addr) (i left : Nat) (s : State) :
    ∃ bytes : List Byte, bytes.length = left ∧
      readLoop addr i left s =
        { s with
          dev := { s.dev with bus := (readLoop addr i left s).dev.bus }
          link := { s.link with d2h := s.link.d2h ++ bytes }
          chip := (readLoop addr i left s).chip
          busLog := (readLoop addr i left s).busLog } := by
  induction left generalizing i s with
  | zero => exact ⟨[], rfl, by simp [readLoop]⟩
  | succ n ih =>
    obtain ⟨bytes, hlen, h⟩ :=
      ih (i + 1) (send [(drvRead (elemAddr addr i) s).1] (drvRead (elemAddr addr i) s).2)
    refine ⟨(drvRead (elemAddr addr i) s).1 :: bytes, by simp [hlen], ?_⟩
    unfold readLoop
    rw [h]
    simp [send, drvRead_eq]

end Sys2Proof.Machine
end

