-- ==== Sys2Proof/Laws/Conversation.lean ====
section
/-! SUPPORT. The bus cycles of the driver's operations are the chip's own (R44): `Talks s t` says it of whatever lies between
two states, and every operation of the driver keeps to it. -/
namespace Sys2Proof.Machine

/-- A conversation falls into its parts. -/
theorem Conversation.append {c : Config} {xs ys : List BusCycle} {log : List BusCycle} {chip mid last : Chip}
    (hx : Conversation c xs log chip mid) (hy : Conversation c ys (xs.reverse ++ log) mid last) :
    Conversation c (xs ++ ys) log chip last := by
  induction xs generalizing log chip with
  | nil =>
    have hx : mid = chip := hx
    subst hx
    exact hy
  | cons cy rest ih =>
    rw [List.reverse_cons, List.append_assoc] at hy
    cases hk : cy.kind with
    | read =>
      simp only [List.cons_append, Conversation, hk] at hx ⊢
      exact ⟨hx.1, ih hx.2 hy⟩
    | write =>
      simp only [List.cons_append, Conversation, hk] at hx ⊢
      exact ih hx hy
    | cutWrite => simp only [Conversation, hk] at hx

/-- Between two states the record of bus cycles has grown by a conversation that takes the chip from the one to the other. -/
def Talks (s t : State) : Prop :=
  t.cfg = s.cfg
    ∧ ∃ cycles : List BusCycle, t.busLog = cycles.reverse ++ s.busLog ∧ Conversation s.cfg cycles s.busLog s.chip t.chip

/-- What touches neither the configuration, the record nor the chip says nothing to it. -/
theorem Talks.quiet {s t : State} (hc : t.cfg = s.cfg) (hl : t.busLog = s.busLog) (hp : t.chip = s.chip) : Talks s t :=
  ⟨hc, [], by simpa using hl, hp⟩

theorem Talks.trans {s t u : State} (h1 : Talks s t) (h2 : Talks t u) : Talks s u := by
  obtain ⟨c1, xs, l1, t1⟩ := h1
  obtain ⟨c2, ys, l2, t2⟩ := h2
  rw [c1, l1] at t2
  exact ⟨c2.trans c1, xs ++ ys, by rw [l2, l1, List.reverse_append, List.append_assoc], t1.append t2⟩

/-- The cycles of a conversation are those by which the record has grown. -/
theorem Talks.cycles {s t : State} (h : Talks s t) {cycles : List BusCycle}
    (hl : t.busLog = cycles.reverse ++ s.busLog) : Conversation s.cfg cycles s.busLog s.chip t.chip := by
  obtain ⟨-, xs, l, tk⟩ := h
  rw [hl] at l
  have e := List.append_cancel_right l
  rwa [List.reverse_inj.1 e]

theorem drvRead_talks (a : Addr) (s : State) : Talks s (drvRead a s).2 := by
  rw [drvRead_eq]
  exact ⟨rfl, [readCycleAt a (chipRead s.busLog a s.chip).1], rfl, rfl, rfl⟩

theorem writeCycle_talks (a : Addr) (v : Byte) (s : State) (h : s.dev.bus.ce = true) : Talks s (writeCycle a v s) := by
  rw [writeCycle_eq _ _ _ h]
  exact ⟨rfl, [writeCycleAt a v], rfl, rfl⟩

theorem pollSample_talks (s : State) : Talks s (pollSample s).2 := by
  rw [pollSample_eq]
  exact ⟨rfl, [_], rfl, rfl, rfl⟩

theorem pollLoop_talks (v : Byte) (left : Nat) (s : State) : Talks s (pollLoop v left s) := by
  induction left generalizing s with
  | zero => exact .quiet rfl rfl rfl
  | succ n ih =>
    unfold pollLoop
    split
    · exact (pollSample_talks s).trans (.quiet rfl rfl rfl)
    · exact (pollSample_talks s).trans (ih _)

theorem performItem_talks (it : Item) (s : State) : Talks s (performItem it s) := by
  have hw : Talks s (writeCycle it.addr it.value (setChipEnable true s)) :=
    Talks.trans (t := setChipEnable true s) (.quiet rfl rfl rfl) (writeCycle_talks _ _ _ rfl)
  unfold performItem
  split
  · exact (hw.trans (.quiet rfl rfl rfl)).trans (pollLoop_talks _ _ _)
  · exact hw.trans (.quiet rfl rfl rfl)

theorem drainFrom_talks (i : Nat) (items : List Item) (s : State) : Talks s (drainFrom i items s) := by
  induction items generalizing i s with
  | nil => exact .quiet rfl rfl rfl
  | cons it rest ih =>
    exact (Talks.trans (t := setExecIdx i s) (.quiet rfl rfl rfl) (performItem_talks it _)).trans (ih _ _)

theorem readLoop_talks (addr : Addr) (i left : Nat) (s : State) : Talks s (readLoop addr i left s) := by
  induction left generalizing i s with
  | zero => exact .quiet rfl rfl rfl
  | succ n ih => exact ((drvRead_talks _ s).trans (.quiet rfl rfl rfl)).trans (ih _ _)

end Sys2Proof.Machine
end

