-- ==== Sys2Proof/Laws/Decode.lean ====
section
/-! SUPPORT. The byte-order functions and the opcode map, said once: each inverts the other. -/
namespace Sys2Proof

/-- Reading back the three bytes of a 24-bit value (R9). -/
theorem unle24_extract (v : U24) :
    unle24 (v.extractLsb' 0 8) (v.extractLsb' 8 8) (v.extractLsb' 16 8) = v := by
  unfold unle24
  refine BitVec.eq_of_getLsbD_eq fun i hi => ?_
  simp only [BitVec.getLsbD_or, BitVec.getLsbD_shiftLeft, BitVec.getLsbD_setWidth, BitVec.getLsbD_extractLsb']
  interval_cases i <;> simp

/-- The three bytes of a value put together from three bytes (R9). -/
theorem le24_unle24 (b0 b1 b2 : Byte) : le24 (unle24 b0 b1 b2) = [b0, b1, b2] := by
  unfold le24 unle24
  congr 1
  · refine BitVec.eq_of_getLsbD_eq fun i hi => ?_
    simp
    interval_cases i <;> simp
  · congr 1
    · refine BitVec.eq_of_getLsbD_eq fun i hi => ?_
      simp
      interval_cases i <;> simp
    · congr 1
      refine BitVec.eq_of_getLsbD_eq fun i hi => ?_
      simp
      interval_cases i <;> simp

/-- `allOpcodes` lists every opcode. -/
theorem mem_allOpcodes (o : Opcode) : o ∈ allOpcodes := by cases o <;> decide

/-- Under an injective map the opcode of an opcode's byte is that opcode (R63). -/
theorem opcodeOf_opcodeByte {ops : OpcodeMap} (h : Function.Injective (opcodeByte ops)) (o : Opcode) :
    opcodeOf ops (opcodeByte ops o) = some o := by
  unfold opcodeOf
  cases hf : allOpcodes.find? (fun x => opcodeByte ops x == opcodeByte ops o) with
  | none => simpa using List.find?_eq_none.1 hf o (mem_allOpcodes o)
  | some x =>
    have hx := List.find?_some hf
    simp only [beq_iff_eq] at hx
    rw [h hx]

/-- The opcode found for a byte has that byte. -/
theorem opcodeByte_of_opcodeOf {ops : OpcodeMap} {b : Byte} {o : Opcode} (h : opcodeOf ops b = some o) :
    opcodeByte ops o = b := by
  simpa using List.find?_some h

/-- A byte is unassigned exactly if it is no opcode's byte (R72). -/
theorem opcodeOf_eq_none {ops : OpcodeMap} {b : Byte} : opcodeOf ops b = none ↔ ∀ o, opcodeByte ops o ≠ b := by
  unfold opcodeOf
  rw [List.find?_eq_none]
  exact ⟨fun h o ho => by simpa [ho] using h o (mem_allOpcodes o), fun h o _ => by simp [h o]⟩

end Sys2Proof
end

