-- ==== Sys2Proof/Laws/Memory.lean ====
section
/-! SUPPORT. The reference chip's cells: read after write, and the canonical form, which every operation keeps. -/
namespace Sys2Proof.Machine

/-- Every address of a sorted tail lies above its head, so setting a cell above the head keeps that. -/
theorem cellsSet_above {x : Nat} {m : List Host.Cell} {a : Nat} {v : Byte} (hx : x < a)
    (h : ∀ c ∈ m, x < c.1) : ∀ c ∈ cellsSet m a v, x < c.1 := by
  induction m with
  | nil => simpa [cellsSet] using hx
  | cons c rest ih =>
    obtain ⟨k, w⟩ := c
    have hk := h (k, w) (by simp)
    have hr : ∀ c ∈ rest, x < c.1 := fun c hc => h c (by simp [hc])
    unfold cellsSet
    split
    · intro c hc
      simp only [List.mem_cons] at hc
      rcases hc with rfl | rfl | hc
      · exact hx
      · exact hk
      · exact hr c hc
    · split
      · intro c hc
        simp only [List.mem_cons] at hc
        rcases hc with rfl | hc
        · exact hx
        · exact hr c hc
      · intro c hc
        simp only [List.mem_cons] at hc
        rcases hc with rfl | hc
        · exact hk
        · exact ih hr c hc

/-- Setting a cell keeps the list sorted. -/
theorem cellsSet_sorted {m : List Host.Cell} (a : Nat) (v : Byte) (h : m.Pairwise fun x y => x.1 < y.1) :
    (cellsSet m a v).Pairwise fun x y => x.1 < y.1 := by
  induction m with
  | nil => simp [cellsSet]
  | cons c rest ih =>
    obtain ⟨k, w⟩ := c
    rw [List.pairwise_cons] at h
    unfold cellsSet
    split
    · rename_i hlt
      refine List.pairwise_cons.2 ⟨?_, List.pairwise_cons.2 h⟩
      intro c hc
      simp only [List.mem_cons] at hc
      rcases hc with rfl | hc
      · exact hlt
      · exact Nat.lt_trans hlt (h.1 c hc)
    · split
      · rename_i _ heq
        subst heq
        exact List.pairwise_cons.2 ⟨h.1, h.2⟩
      · rename_i hge hne
        exact List.pairwise_cons.2 ⟨cellsSet_above (by simp only; omega) h.1, ih h.2⟩

/-- What is in the list after setting a cell: that cell, or one that was there. -/
theorem mem_cellsSet {m : List Host.Cell} {a : Nat} {v : Byte} {c : Host.Cell} (h : c ∈ cellsSet m a v) :
    c = (a, v) ∨ c ∈ m := by
  induction m with
  | nil => left; simpa [cellsSet] using h
  | cons d rest ih =>
    obtain ⟨k, w⟩ := d
    unfold cellsSet at h
    split at h
    · simpa using h
    · split at h
      · rcases List.mem_cons.1 h with rfl | h
        · exact .inl rfl
        · exact .inr (by simp [h])
      · rcases List.mem_cons.1 h with rfl | h
        · exact .inr (by simp)
        · rcases ih h with rfl | h
          · exact .inl rfl
          · exact .inr (by simp [h])

/-- A write to an address of the chip space keeps the canonical form. -/
theorem Memory.write_wf {m : Memory} {a : Nat} {v : Byte} (ha : a < 2 ^ 24) (h : m.wf) : (Memory.write m a v).wf := by
  unfold Memory.write
  split
  · exact ⟨h.1.filter _, fun c hc => h.2 c (List.mem_filter.1 hc).1⟩
  · rename_i hv
    refine ⟨cellsSet_sorted a v h.1, fun c hc => ?_⟩
    rcases mem_cellsSet hc with rfl | hc
    · exact ⟨hv, ha⟩
    · exact h.2 c hc

/-- Reading a cell just set. -/
theorem read_cellsSet (m : List Host.Cell) (a b : Nat) (v : Byte) (h : m.Pairwise fun x y => x.1 < y.1) :
    Memory.read (cellsSet m a v) b = if b = a then v else Memory.read m b := by
  induction m with
  | nil =>
    simp only [cellsSet, Memory.read]
    by_cases hb : b = a
    · simp [hb]
    · simp [hb, Ne.symm hb]
  | cons c rest ih =>
    obtain ⟨k, w⟩ := c
    rw [List.pairwise_cons] at h
    unfold cellsSet
    split
    · simp only [Memory.read]
      by_cases hb : b = a
      · simp [hb]
      · simp [hb, Ne.symm hb]
    · split
      · rename_i heq
        subst heq
        simp only [Memory.read]
        by_cases hb : b = a
        · simp [hb]
        · simp [hb, Ne.symm hb]
      · rename_i hne
        simp only [Memory.read, ih h.2]
        by_cases hb : b = a
        · subst hb; simp [Ne.symm hne]
        · simp [hb]

/-- Removing a cell leaves it reading as an unlisted one, and every other as before. -/
theorem read_filter (m : Memory) (a b : Nat) :
    Memory.read (m.filter fun c => c.1 != a) b = if b = a then unlistedByte else Memory.read m b := by
  induction m with
  | nil => simp [Memory.read]
  | cons c rest ih =>
    obtain ⟨k, w⟩ := c
    by_cases hk : k = a
    · simp only [List.filter_cons, hk, bne_self_eq_false, Bool.false_eq_true, if_false, ih, Memory.read]
      by_cases hb : b = a
      · simp [hb]
      · simp [hb, Ne.symm hb]
    · simp only [List.filter_cons, bne_iff_ne, ne_eq, hk, not_false_eq_true, if_true, Memory.read, ih]
      by_cases hb : b = a
      · subst hb; simp [hk]
      · simp [hb]

/-- A read after a write: the written byte at that address, and what was there before at every other. -/
theorem Memory.read_write {m : Memory} (h : m.wf) (a b : Nat) (v : Byte) :
    Memory.read (Memory.write m a v) b = if b = a then v else Memory.read m b := by
  unfold Memory.write
  split
  · rename_i hv; rw [read_filter, hv]
  · exact read_cellsSet m a b v h.1

/-! ## The chip agent keeps the canonical form -/

/-- The reference chip's write cycle keeps the canonical form. -/
theorem refWrite_wf {c : Config} {rc : RefChip} {a : Addr} {v : Byte} (h : rc.mem.wf) : (refWrite c rc a v).mem.wf := by
  simp only [refWrite, refProgram]
  repeat' split
  all_goals first | exact h | exact Memory.write_wf a.isLt h

/-- The reference chip's answer to a read leaves its cells alone. -/
theorem refRead_mem (log : List BusCycle) (rc : RefChip) (a : Addr) : (refRead log rc a).2.mem = rc.mem := by
  simp only [refRead]
  repeat' split
  all_goals rfl

end Sys2Proof.Machine
end

