-- ==== Sys2Proof/Laws/PerInstr.lean ====
section
/-! SUPPORT. Facts of the instruction set, one lemma per instruction. -/

/-- A well-formed request is encoded in as many bytes as R62 and R74 give its format, the first of them its opcode byte. -/
def Sys2Proof.Laws.FrameLength.Statement (i : Sys2Proof.Instr) : Prop :=
  ∀ ops : Sys2Proof.OpcodeMap, i.wf = true →
    (Sys2Proof.encode ops i).length = Sys2Proof.frameLength i
      ∧ (Sys2Proof.encode ops i).head? = some (Sys2Proof.opcodeByte ops i.opcode)

namespace Sys2Proof.Laws

theorem FrameLength.queryName : FrameLength.Statement .queryName := fun _ _ => ⟨rfl, rfl⟩
theorem FrameLength.opbufInit : FrameLength.Statement .opbufInit := fun _ _ => ⟨rfl, rfl⟩
theorem FrameLength.queryOpbufSize : FrameLength.Statement .queryOpbufSize := fun _ _ => ⟨rfl, rfl⟩
theorem FrameLength.querySerbufSize : FrameLength.Statement .querySerbufSize := fun _ _ => ⟨rfl, rfl⟩
theorem FrameLength.opbufWriten (len : U24) (addr : Addr) (data : List Byte) :
    FrameLength.Statement (.opbufWriten len addr data) := by
  intro ops h
  have h : data.length = len.toNat := by simpa [Instr.wf] using h
  refine ⟨?_, rfl⟩
  simp [encode, frameLength, le24, h]
  omega
theorem FrameLength.opbufSetSdp : FrameLength.Statement .opbufSetSdp := fun _ _ => ⟨rfl, rfl⟩
theorem FrameLength.opbufResetSdp : FrameLength.Statement .opbufResetSdp := fun _ _ => ⟨rfl, rfl⟩
theorem FrameLength.opbufExec : FrameLength.Statement .opbufExec := fun _ _ => ⟨rfl, rfl⟩
theorem FrameLength.readN (addr : Addr) (len : U24) : FrameLength.Statement (.readN addr len) := fun _ _ => ⟨rfl, rfl⟩
theorem FrameLength.errorcntQuery : FrameLength.Statement .errorcntQuery := fun _ _ => ⟨rfl, rfl⟩
theorem FrameLength.errorcntReset : FrameLength.Statement .errorcntReset := fun _ _ => ⟨rfl, rfl⟩

end Sys2Proof.Laws
end

