-- ==== Sys2Proof/Laws/Step.lean ====
section
/-! SUPPORT. What a step can do, said once: a choice changes the environment only, and a step is a wait or one agent's move;
and what the host's and the reset's small operations change. -/
namespace Sys2Proof.Machine

/-- A draw changes the environment only, and not its inputs. -/
theorem draw_env (s : State) : ∃ env, (draw s).2 = { s with env := env } ∧ env.inputs = s.env.inputs := by
  unfold draw
  split <;> exact ⟨_, rfl, rfl⟩

/-- The choice of an agent changes the environment only, and not its inputs. -/
theorem chooseAgent_env {s t : State} {a : Option Agent} (h : chooseAgent s = (a, t)) :
    ∃ env, t = { s with env := env } ∧ env.inputs = s.env.inputs := by
  unfold chooseAgent at h
  split at h
  · injection h with _ h
    exact ⟨s.env, h.symm, rfl⟩
  · injection h with _ h
    exact ⟨s.env, h.symm, rfl⟩
  · injection h with _ h
    obtain ⟨env, he, hi⟩ := draw_env s
    rw [drawBelow_state, he] at h
    exact ⟨env, h.symm, hi⟩

/-- The agent chosen can move. -/
theorem chooseAgent_ready {s t : State} {a : Agent} (h : chooseAgent s = (some a, t)) : agentReady s a = true := by
  have key : ∀ b ∈ readyAgents s, agentReady s b = true := fun b hb => (List.mem_filter.1 hb).2
  unfold chooseAgent at h
  split at h
  · cases h
  · rename_i x hx
    injection h with h _
    injection h with h
    exact key _ (by simp [hx, h])
  · rename_i x y r hx
    injection h with h _
    exact key _ (by rw [hx]; exact List.mem_of_getElem? h)

/-- A step that answers a next state is a wait or the move of an agent that could move. -/
theorem step_next_cases {s t : State} (h : step s = .next t) :
    ∃ env, env.inputs = s.env.inputs
      ∧ (t = { s with env := env }
        ∨ ∃ a, agentReady s a = true ∧ agentStep a { s with env := env } = .next t) := by
  simp only [step, machineStep] at h
  split at h
  · cases h
  · split at h
    · rename_i u hch
      obtain ⟨env, rfl, hi⟩ := chooseAgent_env hch
      injection h with h
      exact ⟨env, hi, .inl h.symm⟩
    · rename_i a u hch
      obtain ⟨env, rfl, hi⟩ := chooseAgent_env hch
      exact ⟨env, hi, .inr ⟨a, chooseAgent_ready hch, h⟩⟩

/-- Every instruction answers a next state. -/
theorem exec_next (i : Instr) (s : State) : ∃ t, exec i s = .next t := by
  cases i <;> exact ⟨_, rfl⟩

/-- The receiver changes the device's receiver registers and `dev_state` only. -/
theorem receive_frame (b : Byte) (s : State) :
    receive b s = { s with
      dev := { s.dev with
        fsm := (receive b s).dev.fsm, rxOp := (receive b s).dev.rxOp, rxHdr := (receive b s).dev.rxHdr,
        rxLen := (receive b s).dev.rxLen, rxAddr := (receive b s).dev.rxAddr, rxData := (receive b s).dev.rxData,
        rxGot := (receive b s).dev.rxGot } } := by
  simp only [receive]
  split <;> simp only [receiveOpcode, receiveHeader, receiveData, acceptHeader] <;> repeat' split
  all_goals rfl

/-- The flush leaves an ending of the bytes past the response, and changes nothing else but the environment. -/
theorem flushInput_eq (extra : List Byte) (s : State) :
    ∃ env late, late <:+ extra ∧ flushInput extra s = { s with env := env, link := { s.link with d2h := late } } := by
  cases extra with
  | nil => exact ⟨s.env, [], List.suffix_refl _, rfl⟩
  | cons x xs =>
    obtain ⟨env, he, -⟩ := draw_env s
    refine ⟨env, (x :: xs).drop ((x :: xs).length - (drawBelow ((x :: xs).length + 1) s).1), List.drop_suffix _ _, ?_⟩
    simp only [flushInput, drawBelow_state, he]

/-- Tearing the transport down leaves a beginning of the bytes on their way, and changes nothing else but the
environment. -/
theorem cutWire_eq (s : State) :
    ∃ env w, w <+: s.link.wire ∧ cutWire s = { s with env := env, link := { s.link with wire := w } } := by
  unfold cutWire
  split
  · exact ⟨s.env, s.link.wire, List.prefix_refl _, rfl⟩
  · obtain ⟨env, he, -⟩ := draw_env s
    refine ⟨env, s.link.wire.take (drawBelow (s.link.wire.length + 1) s).1, List.take_prefix _ _, ?_⟩
    simp only [drawBelow_state, he]

/-- Opening leaves an ending of the bytes not yet read, and changes nothing else but the environment. -/
theorem openLink_eq (s : State) :
    ∃ env late, late <:+ s.link.d2h ∧ openLink s = { s with env := env, link := { s.link with d2h := late } } := by
  unfold openLink
  split
  · exact ⟨s.env, s.link.d2h, List.suffix_refl _, rfl⟩
  · obtain ⟨env, he, -⟩ := draw_env s
    refine ⟨env, s.link.d2h.drop (drawBelow (s.link.d2h.length + 1) s).1, List.drop_suffix _ _, ?_⟩
    simp only [drawBelow_state, he]

/-- What the item in progress leaves in its cell changes the chip and the environment only. -/
theorem leaveCell_frame (it : Item) (s : State) :
    ∃ env, leaveCell it s = { s with chip := (leaveCell it s).chip, env := env } := by
  obtain ⟨env, he, -⟩ := draw_env s
  exact ⟨env, by unfold leaveCell; rw [he]⟩

/-- The samples of a cut polling change nothing outside the driver's own state. -/
theorem pollSome_frame (v : Byte) (left : Nat) (s : State) : DriverFrame s (pollSome v left s) := by
  induction left generalizing s with
  | zero => rfl
  | succ n ih =>
    have h1 : DriverFrame s (pollSample s).2 := by rw [pollSample_eq]; rfl
    unfold pollSome
    split
    · exact h1
    · exact h1.trans (ih _)

end Sys2Proof.Machine
end

