-- ==== Sys2Proof/Laws/Reset.lean ====
section
/-! SUPPORT. What a device reset that cuts the command in progress can change, said once. -/
namespace Sys2Proof.Machine

/-- What a cut command leaves as it was: everything but the device, the chip, the record of bus cycles and the choices taken;
and the device has only sent more. -/
structure CutFrame (s t : State) : Prop where
  cfg : t.cfg = s.cfg
  host : t.host = s.host
  wire : t.link.wire = s.link.wire
  h2d : t.link.h2d = s.link.h2d
  d2h : s.link.d2h <+: t.link.d2h
  inputs : t.env.inputs = s.env.inputs

theorem CutFrame.refl (s : State) : CutFrame s s := ⟨rfl, rfl, rfl, rfl, List.prefix_refl _, rfl⟩

theorem CutFrame.trans {s t u : State} (h : CutFrame s t) (k : CutFrame t u) : CutFrame s u :=
  ⟨k.cfg.trans h.cfg, k.host.trans h.host, k.wire.trans h.wire, k.h2d.trans h.h2d, h.d2h.trans k.d2h, k.inputs.trans h.inputs⟩

theorem DriverFrame.cutFrame {s t : State} (h : DriverFrame s t) : CutFrame s t := by
  rw [h]
  exact ⟨rfl, rfl, rfl, rfl, List.prefix_refl _, rfl⟩

theorem draw_cutFrame (s : State) : CutFrame s (draw s).2 := by
  obtain ⟨env, he, hi⟩ := draw_env s
  rw [he]
  exact ⟨rfl, rfl, rfl, rfl, List.prefix_refl _, hi⟩

theorem send_cutFrame (bs : List Byte) (s : State) : CutFrame s (send bs s) :=
  ⟨rfl, rfl, rfl, rfl, List.prefix_append _ _, rfl⟩

theorem leaveCell_cutFrame (it : Item) (s : State) : CutFrame s (leaveCell it s) := by
  refine (draw_cutFrame s).trans ?_
  unfold leaveCell
  exact ⟨rfl, rfl, rfl, rfl, List.prefix_refl _, rfl⟩

theorem drvRead_cutFrame (a : Addr) (s : State) : CutFrame s (drvRead a s).2 := by
  rw [drvRead_eq]
  exact ⟨rfl, rfl, rfl, rfl, List.prefix_refl _, rfl⟩

theorem readLoop_cutFrame (addr : Addr) (i left : Nat) (s : State) : CutFrame s (readLoop addr i left s) := by
  obtain ⟨bytes, -, h⟩ := readLoop_frame addr i left s
  rw [h]
  exact ⟨rfl, rfl, rfl, rfl, List.prefix_append _ _, rfl⟩

theorem cutInWrite_cutFrame (it : Item) (s : State) : CutFrame s (cutInWrite it s) := by
  refine CutFrame.trans ?_ (leaveCell_cutFrame it _)
  exact ⟨rfl, rfl, rfl, rfl, List.prefix_refl _, rfl⟩

theorem cutInPolling_cutFrame (it : Item) (n : Nat) (s : State) : CutFrame s (cutInPolling it n s) := by
  refine CutFrame.trans (CutFrame.trans ?_ (pollSome_frame it.value n _).cutFrame) (leaveCell_cutFrame it _)
  rw [writeCycle_eq _ _ _ rfl]
  exact ⟨rfl, rfl, rfl, rfl, List.prefix_refl _, rfl⟩

theorem cutItem_cutFrame (it : Item) (s : State) : CutFrame s (cutItem it s) := by
  simp only [cutItem]
  split
  · exact cutInWrite_cutFrame it s
  · split
    · exact (draw_cutFrame s).trans (cutInWrite_cutFrame it _)
    · exact (draw_cutFrame s).trans (cutInPolling_cutFrame it _ _)

theorem cutExec_cutFrame (s : State) : CutFrame s (cutExec s) := by
  have h := fun k => (draw_cutFrame s).trans (drainFrom_frame 0 (s.dev.opbuf.take k) (draw s).2).cutFrame
  simp only [cutExec]
  split
  · exact h _
  · split
    · exact (h _).trans ((draw_cutFrame _).trans (cutItem_cutFrame _ _))
    · exact (h _).trans (draw_cutFrame _)

theorem cutRead_cutFrame (addr : Addr) (len : U24) (s : State) : CutFrame s (cutRead addr len s) := by
  have h := fun n => ((draw_cutFrame s).trans (send_cutFrame [statusByte s.cfg true] _)).trans (readLoop_cutFrame addr 0 n _)
  simp only [cutRead]
  split
  · exact draw_cutFrame s
  · split
    · exact (h _).trans ((draw_cutFrame _).trans (drvRead_cutFrame _ _))
    · exact (h _).trans (draw_cutFrame _)

/-- A device reset cuts any command in progress within this frame (R162). -/
theorem cutCommand_cutFrame (s : State) : CutFrame s (cutCommand s) := by
  unfold cutCommand
  split
  · split
    · exact cutExec_cutFrame s
    · exact cutRead_cutFrame _ _ s
    · simp only [cutResponse]
      split
      · exact (draw_cutFrame s).trans (send_cutFrame _ _)
      · exact CutFrame.refl s
      · exact CutFrame.refl s
    · exact CutFrame.refl s
  all_goals exact CutFrame.refl s

/-- Outside BUSY there is no command to cut. -/
theorem cutCommand_idle {s : State} (h : s.dev.fsm ≠ .busy) : cutCommand s = s := by
  unfold cutCommand
  split
  · rename_i e
    exact absurd e h
  all_goals rfl

end Sys2Proof.Machine
end

