-- ==== Sys2Proof/Laws/Session.lean ====
section
/-! SUPPORT. What one `Transact` of a workflow does, said once, and how a workflow's run is put together from its
`Transact`s. -/
namespace Sys2Proof.Machine

/-- What a `Transact` that goes on has changed before the workflow takes its answer (R118, R121): the request is on its way,
the response taken, and a status other than `P_ACK` logged and counted. -/
def transacted (p : Phase) (st : Byte) (s : State) : State :=
  { s with
    link := { s.link with wire := s.link.wire ++ encode s.cfg.opcodes (phaseRequest s.host p), d2h := [] }
    host := { s.host with
      sent := true
      log := if st = s.cfg.ack then s.host.log
        else s.host.log ++ [.status (opcodeByte s.cfg.opcodes (phaseRequest s.host p).opcode) st]
      nakCount := if st = s.cfg.ack then s.host.nakCount else s.host.nakCount + 1 } }

/-- A whole response alone, which does not end the workflow, is taken: a status other than `P_ACK` is logged and counted, and
the workflow goes on (R118, R121, R122). -/
theorem takeResponse_goes_on {s : State} {p : Phase} {st : Byte} {payload : List Byte}
    (hd : s.link.d2h = st :: payload) (hl : payload.length = payloadLength (phaseRequest s.host p))
    (hg : s.cfg.nakPolicy = .proceedReported ∨ st = s.cfg.ack) :
    takeResponse p s = advance p st payload
      (if st = s.cfg.ack then { s with link := { s.link with d2h := [] } }
        else countStatus (opcodeByte s.cfg.opcodes (phaseRequest s.host p).opcode) st
          { s with link := { s.link with d2h := [] } }) := by
  have e1 : (st :: payload).take (1 + payloadLength (phaseRequest s.host p)) = st :: payload :=
    List.take_of_length_le (by simp; omega)
  have e2 : (st :: payload).drop (1 + payloadLength (phaseRequest s.host p)) = [] :=
    List.drop_eq_nil_of_le (by simp; omega)
  simp only [takeResponse, hd, e1, e2, flushInput]
  by_cases h : st = s.cfg.ack
  · simp only [h, if_true]
  · simp only [h, hg.resolve_right h, if_false]

/-- A `Transact` whose response does not end the workflow sends its request, takes the response, and goes on with it. -/
theorem transact_eq {s : State} {p : Phase} {st : Byte} {payload : List Byte}
    (hp : s.host.phase = some p) (hs : s.host.sent = false) (ho : s.host.sess = .opened)
    (hl : payload.length = payloadLength (phaseRequest s.host p))
    (hg : s.cfg.nakPolicy = .proceedReported ∨ st = s.cfg.ack) :
    transact (st, payload) s = .next (advance p st payload (transacted p st s)) := by
  have hreq : phaseRequest { s.host with sent := true } p = phaseRequest s.host p := by cases p <;> rfl
  have h1 : hostStep s = .next (hostSend (phaseRequest s.host p) s) := by
    simp only [hostStep, hp, hs, ho, if_true, Bool.false_eq_true, if_false]
  obtain ⟨u, hu⟩ : ∃ u, { hostSend (phaseRequest s.host p) s with
    link := { (hostSend (phaseRequest s.host p) s).link with d2h := st :: payload } } = u := ⟨_, rfl⟩
  have hup : u.host.phase = some p := by rw [← hu]; exact hp
  have hus : u.host.sent = true := by rw [← hu]; rfl
  have hur : phaseRequest u.host p = phaseRequest s.host p := by rw [← hu]; exact hreq
  simp only [transact, h1, hu]
  simp only [hostStep, hup, hus, if_true]
  rw [takeResponse_goes_on (by rw [← hu]) (by rw [hur]; exact hl) (by rw [← hu]; exact hg), hur, ← hu]
  by_cases h : st = s.cfg.ack
  · simp [h, transacted, hostSend]
  · simp [h, transacted, countStatus, hostSend]

/-- Taking an answer leaves everything but the workflow's own registers, its point and its results as it is. -/
theorem advance_keeps (p : Phase) (st : Byte) (payload : List Byte) (s : State) :
    (advance p st payload s).cfg = s.cfg ∧ (advance p st payload s).link = s.link
      ∧ (advance p st payload s).host.sess = s.host.sess ∧ (advance p st payload s).host.calls = s.host.calls
      ∧ (advance p st payload s).host.nakCount = s.host.nakCount := by
  cases p <;> simp only [advance, writeNext] <;> repeat' split
  all_goals exact ⟨rfl, rfl, rfl, rfl, rfl⟩

/-- A run of the workflow begins with its next `Transact`. -/
theorem hostRun_cons {s u : State} {p : Phase} {reply : Byte × List Byte} (rest : List (Byte × List Byte))
    (hp : s.host.phase = some p) (h : transact reply s = .next u) :
    hostRun (reply :: rest) s = (phaseRequest s.host p :: (hostRun rest u).1, (hostRun rest u).2) := by
  simp only [hostRun, hp, h]

/-- A run of no workflow is over. -/
theorem hostRun_none (replies : List (Byte × List Byte)) (s : State) (h : s.host.phase = none) :
    hostRun replies s = ([], s) := by
  cases replies <;> simp [hostRun, h]

/-- The replies after the first let the workflow go on if all do. -/
theorem GoesOn.tail {c : Config} {q : Byte × List Byte} {rest : List (Byte × List Byte)} (h : GoesOn c (q :: rest)) :
    GoesOn c rest := h.imp id fun h r hr => h r (List.mem_cons_of_mem _ hr)

/-- The first reply lets the workflow go on if all do. -/
theorem GoesOn.head {c : Config} {q : Byte × List Byte} {rest : List (Byte × List Byte)} (h : GoesOn c (q :: rest)) :
    c.nakPolicy = .proceedReported ∨ q.1 = c.ack := h.imp id fun h => h q (List.mem_cons_self ..)

section
variable {s : State} {p : Phase} {st : Byte} {payload : List Byte} {rest : List (Byte × List Byte)}
  {requests : List Instr} {r : Result}

/-- The last `Transact` of a workflow, and its result. -/
theorem Returns.last (hp : s.host.phase = some p) (hs : s.host.sent = false) (ho : s.host.sess = .opened)
    (hl : payload.length = payloadLength (phaseRequest s.host p)) (hg : GoesOn s.cfg [(st, payload)])
    (hn : (advance p st payload (transacted p st s)).host.phase = none)
    (hr : (advance p st payload (transacted p st s)).host.results = s.host.results ++ [r]) :
    Returns [(st, payload)] s [phaseRequest s.host p] r := by
  obtain ⟨-, hlink, hsess, hcalls, hcount⟩ := advance_keeps p st payload (transacted p st s)
  have e : hostRun [(st, payload)] s = ([phaseRequest s.host p], advance p st payload (transacted p st s)) :=
    hostRun_cons [] hp (transact_eq hp hs ho hl hg.head)
  constructor <;> rw [e]
  · exact hn
  · exact hr
  · exact hsess.trans ho
  · exact hcalls
  · simp only [hlink]
    simp [transacted]
  · rw [hcount]
    by_cases h : st = s.cfg.ack <;> simp [transacted, h]

/-- A `Transact` of a workflow, before the rest of it. -/
theorem Returns.cons (hp : s.host.phase = some p) (hs : s.host.sent = false) (ho : s.host.sess = .opened)
    (hl : payload.length = payloadLength (phaseRequest s.host p)) (hg : GoesOn s.cfg ((st, payload) :: rest))
    (hr : (advance p st payload (transacted p st s)).host.results = s.host.results)
    (h : Returns rest (advance p st payload (transacted p st s)) requests r) :
    Returns ((st, payload) :: rest) s (phaseRequest s.host p :: requests) r := by
  obtain ⟨hcfg, hlink, -, hcalls, hcount⟩ := advance_keeps p st payload (transacted p st s)
  have e := hostRun_cons rest hp (transact_eq hp hs ho hl hg.head)
  constructor <;> rw [e]
  · simp only [h.sends]
  · exact h.ended
  · rw [h.results, hr]
  · exact h.sess
  · exact h.calls.trans hcalls
  · rw [h.wire, hlink, hcfg]
    simp [transacted]
  · rw [h.nakCount, hcount, hcfg]
    by_cases hst : st = s.cfg.ack <;> simp [transacted, hst]; omega

end

end Sys2Proof.Machine
end

