-- ==== Sys2Proof/Tests/Slice0.lean ====
section
/-! SUPPORT. Tests: each expected value is from 95_test_vectors.md (its id stands in the comment) or from the rule named. -/
namespace Sys2Proof.Tests
open Sys2Proof.Machine

/-! ## Helpers -/

/-- The device's response so far, where the step goes on. -/
def sent (o : Host.Outcome State Fault Refusal) : Option (List Byte) :=
  match o with
  | .next t => some t.link.d2h
  | .fault _ => none
  | .refused _ => none

/-- A projection of the next state. -/
def after {α : Type} (f : State → α) (o : Host.Outcome State Fault Refusal) : Option α :=
  match o with
  | .next t => some (f t)
  | .fault _ => none
  | .refused _ => none

/-- The state after reset with another configuration. -/
def withCfg (f : Config → Config) : State := State.resetWith (f Config.default)

/-- The state after reset with this opbuf. -/
def withOpbuf (items : List Item) : State :=
  { State.reset with dev := { State.reset.dev with opbuf := items } }

/-- A state whose chip gives these answers. -/
def answering (answers : List Byte) (s : State) : State := { s with chip := .agent answers }

/-- The reference chip, unlocked, with busy length `b`. -/
def refChip (mem : Memory) (b : Nat) : RefChip :=
  { mem := mem, locked := false, busy := none, held := [], never := [], last := [], busyLen := b }

def polled (a : Addr) (v : Byte) : Item := { addr := a, value := v, mode := .polled }
def fast (a : Addr) (v : Byte) : Item := { addr := a, value := v, mode := .fast }

/-- An opbuf of capacity `cap` that holds n items, whatever they are. -/
def filled (cap : U16) (n : Nat) : State :=
  { withCfg (fun c => { c with opbufCap := cap }) with
    dev := { Device.reset with opbuf := List.replicate n (polled 0x10 0x01) } }

/-! ## WellFormed -/

/-- R65: data shorter than len is no well-formed frame. -/
theorem test_wf_refuses_short_data : Instr.wf (.opbufWriten 2 0x001000 [0xDE]) = false := by decide
theorem test_wf_accepts_exact_data : Instr.wf (.opbufWriten 2 0x001000 [0xDE, 0xAD]) = true := by decide

/-! ## Decode: words written out from R62, R63 and the vectors -/

def decodes (bs : List Byte) (i : Instr) : Bool :=
  match decodeFrame OpcodeMap.default bs with
  | .ok (j, rest) => j = i && rest = []
  | .error _ => false

theorem test_decode_query_name : decodes [0x01] .queryName = true := by decide
theorem test_decode_opbuf_init : decodes [0x02] .opbufInit = true := by decide
theorem test_decode_query_opbuf_size : decodes [0x03] .queryOpbufSize = true := by decide
theorem test_decode_query_serbuf_size : decodes [0x04] .querySerbufSize = true := by decide
/-- R78, E1. -/
theorem test_decode_opbuf_writen :
    decodes [0x05, 0x02, 0x00, 0x00, 0x00, 0x10, 0x00, 0xDE, 0xAD] (.opbufWriten 2 0x001000 [0xDE, 0xAD]) = true := by
  decide
/-- E3. -/
theorem test_decode_opbuf_writen_empty :
    decodes [0x05, 0x00, 0x00, 0x00, 0xEF, 0xCD, 0xAB] (.opbufWriten 0 0xABCDEF []) = true := by decide
theorem test_decode_opbuf_set_sdp : decodes [0x06] .opbufSetSdp = true := by decide
theorem test_decode_opbuf_reset_sdp : decodes [0x07] .opbufResetSdp = true := by decide
theorem test_decode_opbuf_exec : decodes [0x08] .opbufExec = true := by decide
/-- R78, E2. -/
theorem test_decode_read_n : decodes [0x09, 0x00, 0x10, 0x00, 0x04, 0x00, 0x00] (.readN 0x001000 4) = true := by decide
/-- E4. -/
theorem test_decode_read_n_bytes :
    decodes [0x09, 0x56, 0x34, 0x12, 0x03, 0x02, 0x01] (.readN 0x123456 0x010203) = true := by decide
theorem test_decode_errorcnt_query : decodes [0x0A] .errorcntQuery = true := by decide
theorem test_decode_errorcnt_reset : decodes [0x0B] .errorcntReset = true := by decide

def decodeFails (bs : List Byte) (e : DecodeError) : Bool :=
  match decodeFrame OpcodeMap.default bs with
  | .ok _ => false
  | .error x => x = e

/-- E5, R72. -/
theorem test_decode_unassigned : decodeFails [0x0C] (.unassigned 0x0C) = true := by decide
/-- R165: a frame that stops partway. -/
theorem test_decode_truncated : decodeFails [0x09, 0x00, 0x10] (.truncated .readN) = true := by decide

/-- E1, E2. -/
theorem test_encode_writen :
    encode OpcodeMap.default (.opbufWriten 2 0x001000 [0xDE, 0xAD])
      = [0x05, 0x02, 0x00, 0x00, 0x00, 0x10, 0x00, 0xDE, 0xAD] := by decide
theorem test_encode_readn :
    encode OpcodeMap.default (.readN 0x123456 0x010203) = [0x09, 0x56, 0x34, 0x12, 0x03, 0x02, 0x01] := by decide

/-- The table's numbering: the first byte is bits 7..0, later bytes count on from it (READ_N 0x001000, 4). -/
theorem test_table_word : decodeTableWord 56 0x00000400100009 = some (.readN 0x001000 4) := by decide
theorem test_table_word_bare : decodeTableWord 8 0x0A = some .errorcntQuery := by decide
theorem test_table_word_unassigned : decodeTableWord 8 0x0C = none := by decide

/-- `step` runs the placed instruction as the first after reset. -/
theorem test_first_step_query :
    sent (step (State.reset.withFetchWord 8 0x03)) = some [0x06, 0x80, 0x00] := by decide
theorem test_first_step_read_n : sent (step (State.reset.withFetchWord 8 0x09)) = some [0x06] := by decide
theorem test_first_step_unassigned : sent (step (State.reset.withFetchWord 8 0x00)) = some [0x15] := by decide
theorem test_first_step_writen :
    after (fun t => t.dev.opbuf) (step (State.reset.withFetchWord 72 0xADDE00100000000205))
      = some [polled 0x001000 0xDE, polled 0x001001 0xAD] := by decide

/-! ## Queries -/

/-- Q1. -/
theorem test_query_name :
    sent (exec .queryName State.reset)
      = some [0x06, 0x54, 0x45, 0x53, 0x54, 0x42, 0x4F, 0x41, 0x52, 0x44, 0, 0, 0, 0, 0, 0, 0] := by decide
/-- Q3. -/
theorem test_query_name_full :
    sent (exec .queryName (withCfg fun c => { c with boardName := [0x41, 0x42, 0x43, 0x44, 0x45, 0x46, 0x47, 0x48,
      0x49, 0x4A, 0x4B, 0x4C, 0x4D, 0x4E, 0x4F, 0x50] }))
      = some [0x06, 0x41, 0x42, 0x43, 0x44, 0x45, 0x46, 0x47, 0x48, 0x49, 0x4A, 0x4B, 0x4C, 0x4D, 0x4E, 0x4F, 0x50] := by
  decide
/-- Q4. -/
theorem test_query_opbuf_size :
    sent (exec .queryOpbufSize (withCfg fun c => { c with opbufCap := 0x1234 })) = some [0x06, 0x34, 0x12] := by decide
/-- Q5: the total capacity, not the free space. -/
theorem test_query_opbuf_size_total : sent (exec .queryOpbufSize (filled 0x80 3)) = some [0x06, 0x80, 0x00] := by decide
/-- Q6. -/
theorem test_query_serbuf_size : sent (exec .querySerbufSize State.reset) = some [0x06, 0x40, 0x00] := by decide

/-! ## Staging -/

/-- W3: the address wraps. -/
theorem test_writen_wraps :
    after (fun t => (t.link.d2h, t.dev.opbuf)) (exec (.opbufWriten 2 0xFFFFFF [0x11, 0x22]) State.reset)
      = some ([0x06], [polled 0xFFFFFF 0x11, polled 0x000000 0x22]) := by decide
/-- W4, with a buffer of 4: exactly full is accepted. -/
theorem test_writen_exactly_full :
    after (fun t => (t.link.d2h, t.dev.opbuf.length)) (exec (.opbufWriten 2 0x001000 [0xDE, 0xAD]) (filled 4 2))
      = some ([0x06], 4) := by decide
/-- W5, with a buffer of 4: one more is refused, and nothing is staged. -/
theorem test_writen_overflow :
    after (fun t => (t.link.d2h, t.dev.opbuf.length)) (exec (.opbufWriten 2 0x001000 [0xDE, 0xAD]) (filled 4 3))
      = some ([0x15], 3) := by decide
/-- W8. -/
theorem test_set_sdp :
    after (fun t => (t.link.d2h, t.dev.opbuf)) (exec .opbufSetSdp State.reset)
      = some ([0x06], [fast 0x005555 0xAA, fast 0x002AAA 0x55, fast 0x005555 0xA0]) := by decide
/-- W12, with a buffer of 4. -/
theorem test_set_sdp_overflow :
    after (fun t => (t.link.d2h, t.dev.opbuf.length)) (exec .opbufSetSdp (filled 4 2)) = some ([0x15], 2) := by decide
/-- W9. -/
theorem test_reset_sdp :
    after (fun t => t.dev.opbuf) (exec .opbufResetSdp State.reset)
      = some [fast 0x005555 0xAA, fast 0x002AAA 0x55, fast 0x005555 0x80, fast 0x005555 0xAA, fast 0x002AAA 0x55,
        fast 0x005555 0x20] := by decide
/-- W10. -/
theorem test_reset_sdp_small_buffer :
    after (fun t => (t.link.d2h, t.dev.opbuf)) (exec .opbufResetSdp (withCfg fun c => { c with opbufCap := 5 }))
      = some ([0x15], []) := by decide
/-- W13, W14: the error counter stays, and no bus cycle is made. -/
theorem test_opbuf_init :
    after (fun t => (t.link.d2h, t.dev.opbuf, t.dev.errcnt, t.busLog))
      (exec .opbufInit { filled 4 3 with dev := { (filled 4 3).dev with errcnt := 9 } }) = some ([0x06], [], 9, []) := by
  decide

/-! ## Commit and polling -/

/-- The kinds of the bus cycles made, oldest first. -/
def cycles (s : State) : List (CycleKind × Addr × Byte) :=
  (s.busLog.map fun c => (c.kind, c.addr, c.data)).reverse

/-- X7: three samples, success at the third. -/
theorem test_exec_third_sample :
    after (fun t => (t.dev.errcnt, cycles t))
      (exec .opbufExec (answering [0x00, 0x00, 0x80] (withOpbuf [polled 0x002000 0x80])))
      = some (0, [(.write, 0x002000, 0x80), (.read, 0x002000, 0x00), (.read, 0x002000, 0x00),
        (.read, 0x002000, 0x80)]) := by decide
/-- X11: the budget is 1. -/
theorem test_exec_budget_of_one :
    after (fun t => (t.link.d2h, t.dev.errcnt, t.busLog.length))
      (exec .opbufExec (answering [0x80, 0x00]
        { withOpbuf [polled 0x002000 0x00] with cfg := { Config.default with pollLimit := 1 } }))
      = some ([0x06], 1, 2) := by decide
/-- X5: the counter saturates (budget 3 here). -/
theorem test_exec_saturates :
    after (fun t => t.dev.errcnt)
      (exec .opbufExec (answering [0x80, 0x80, 0x80]
        { cfg := { Config.default with pollLimit := 3 }, link := State.reset.link, host := HostSide.reset,
          chip := .agent [], busLog := [], env := State.reset.env,
          dev := { Device.reset with opbuf := [polled 0x001000 0x00], errcnt := 0xFFFFFFFF } }))
      = some 0xFFFFFFFF := by decide
/-- X6: the later value is written last. -/
theorem test_exec_order_on_reference_chip :
    after (fun t => chipMemory t)
      (exec .opbufExec { withOpbuf [polled 1 1, polled 2 2, polled 1 3] with chip := .reference (refChip [] 0) })
      = some [(1, 3), (2, 2)] := by decide
/-- X10: the fast writes lock the reference chip, with no sample. -/
theorem test_exec_locks_reference_chip :
    after (fun t => (t.chip, t.busLog.length, t.dev.errcnt))
      (exec .opbufExec { withOpbuf (sdpItems Config.default.sdpSet) with chip := .reference (refChip [] 0) })
      = some (.reference { refChip [] 0 with locked := true }, 3, 0) := by decide

/-! ## READ_N -/

/-- Vector R2 of section 3.5. -/
theorem test_read_n :
    sent (exec (.readN 0x001000 4)
      { State.reset with chip := .reference (refChip [(0x1000, 0xDE), (0x1001, 0xAD), (0x1002, 0xBE), (0x1003, 0xEF)] 0) })
      = some [0x06, 0xDE, 0xAD, 0xBE, 0xEF] := by decide
/-- Vector R3 of section 3.5: the address wraps. -/
theorem test_read_n_wraps :
    sent (exec (.readN 0xFFFFFF 2) { State.reset with chip := .reference (refChip [(0, 0x22), (0xFFFFFF, 0x11)] 0) })
      = some [0x06, 0x11, 0x22] := by decide

/-! ## Error counter -/

def withErrcnt (n : U32) : State := { State.reset with dev := { Device.reset with errcnt := n } }

/-- K1. -/
theorem test_errcnt_query :
    after (fun t => (t.link.d2h, t.dev.errcnt)) (exec .errorcntQuery (withErrcnt 0x00000102))
      = some ([0x06, 0x02, 0x01, 0x00, 0x00], 0x00000102) := by decide
/-- K3. -/
theorem test_errcnt_reset :
    after (fun t => (t.link.d2h, t.dev.errcnt)) (exec .errorcntReset (withErrcnt 7)) = some ([0x06], 0) := by decide

/-! ## The receiver -/

/-- F1: a partial READ_N. -/
theorem test_partial_read_n :
    (receiveAll [0x09, 0x00, 0x10] State.reset).dev.fsm = .rxHdr
      ∧ (receiveAll [0x09, 0x00, 0x10] State.reset).dev.rxHdr = [0x00, 0x10] := by decide
/-- F2: the handshake's bytes are eaten as header. -/
theorem test_desync :
    request (receiveAll [0x09, 0x00, 0x10, 0x01, 0x03, 0x04, 0x0B] State.reset) = some (.readN 0x011000 0x0B0403) := by
  decide
/-- F3. -/
theorem test_partial_writen :
    (receiveAll [0x05, 0x03, 0x00, 0x00, 0x00, 0x30, 0x00, 0x01, 0x02] State.reset).dev.fsm = .rxData
      ∧ (receiveAll [0x05, 0x03, 0x00, 0x00, 0x00, 0x30, 0x00, 0x01, 0x02] State.reset).dev.rxGot = 2 := by decide
/-- W6, with a buffer of 2: all bytes are consumed, those past the buffer are dropped, and the request is refused. -/
theorem test_oversize_frame :
    after (fun t => (t.link.d2h, t.dev.opbuf))
      (deviceStep (receiveAll [0x05, 0x03, 0x00, 0x00, 0x00, 0x00, 0x00, 0x01, 0x02, 0x03]
        (withCfg fun c => { c with serbufCap := 2 }))) = some ([0x15], []) := by decide
/-- U1. -/
theorem test_unassigned : sent (deviceStep (receive 0x00 State.reset)) = some [0x15] := by decide

/-! ## The host -/

/-- The host of a running program with an open session and reported capacities. -/
def hostOpened (serbuf opbuf : U16) (calls : List Call) : HostSide :=
  { HostSide.reset with running := true, sess := .opened, serbufCap := serbuf, opbufCap := opbuf, calls := calls }

def withHost (h : HostSide) : State := { State.reset with host := h }

/-- H1. -/
theorem test_chunk_serbuf : defaultChunk (withHost (hostOpened 16 128 [])) = 16 := by decide
/-- H2. -/
theorem test_chunk_opbuf : defaultChunk (withHost (hostOpened 64 32 [])) = 32 := by decide
/-- H3. -/
theorem test_write_chunk_zero :
    after (fun t => (t.host.results, t.link.wire)) (hostStep (withHost (hostOpened 64 0 [.write 0x10 [1] none])))
      = some ([.paramError .chunk], []) := by decide
/-- H4: an empty write goes straight to the count. -/
theorem test_write_empty :
    after (fun t => t.host.phase.map (phaseRequest t.host)) (hostStep (withHost (hostOpened 64 128 [.write 0x10 [] none])))
      = some (some .errorcntQuery) := by decide
/-- H6. -/
theorem test_read_too_long :
    after (fun t => (t.host.results, t.link.wire)) (hostStep (withHost (hostOpened 64 128 [.read 0 (2 ^ 24)])))
      = some ([.paramError .len], []) := by decide
/-- R131's example, k = 2: the second chunk. -/
theorem test_write_second_chunk :
    phaseRequest { hostOpened 64 128 [] with wOff := 2, wChunk := 2 }
      (.writeStage { addr := 0x1000, data := [0xDE, 0xAD, 0xBE, 0xEF], nak0 := 0, erase := false })
      = .opbufWriten 2 0x001002 [0xBE, 0xEF] := by decide
/-- H7, H10: a status other than ACK is counted, and the workflow goes on. -/
theorem test_nak_proceeds :
    (takeResponse (.lockStage true 0) { withHost { hostOpened 64 128 [] with sent := true } with
      link := { wire := [], h2d := [], d2h := [0x42] } }).host.nakCount = 1 := by decide
/-- H11. -/
theorem test_verify_fails :
    (takeResponse (.verify 0x1000 [0xDE, 0xAD, 0xBE, 0xEE]) { withHost { hostOpened 64 128 [] with sent := true } with
      link := { wire := [], h2d := [], d2h := [0x06, 0xDE, 0xAD, 0xBE, 0xEF] } }).host.results
      = [.verify false false] := by decide

/-- H8: under `Fatal` the session aborts with status 2 (the handler's own choice prescribed). -/
theorem test_nak_fatal :
    (fun t => (t.host.sess, t.host.exit))
      (takeResponse (.lockStage true 0)
        { withHost { hostOpened 64 128 [] with sent := true } with
          cfg := { Config.default with nakPolicy := .fatal }
          env := { inputs := [], script := [0], draws := 0 }
          link := { wire := [], h2d := [], d2h := [0x15] } }) = (.aborted, some 2) := by decide
/-- H9: three of five bytes, then nothing: the timer is the only agent that can move. -/
theorem test_timeout :
    after (fun t => (t.host.sess, t.host.exit, t.host.log))
      (step { withHost { hostOpened 64 128 [] with sent := true, phase := some (.writeCount
          { addr := 0, data := [], nak0 := 0, erase := false }) } with
        env := { inputs := [], script := [3, 0], draws := 0 }
        link := { wire := [], h2d := [], d2h := [0x06, 0x00, 0x00] } })
      = some (.aborted, some 1, [.transport (some 0x0A) 3]) := by decide
/-- H12: the handshake's requests, in order. -/
theorem test_handshake_requests :
    [Phase.hsName, .hsOpbufSize, .hsSerbufSize, .hsErrcntReset].map
        (fun p => encode OpcodeMap.default (phaseRequest HostSide.reset p)) = [[0x01], [0x03], [0x04], [0x0B]] := by
  decide

/-! ## Text -/

/-- R76: a comment, and a decimal length. -/
theorem test_text_comment :
    readLine "READ_N 0x001000, 4 ; four bytes".toList = some (.request (.readN 0x001000 4)) := by decide
/-- R76: a response. -/
theorem test_text_response : readLine "-> ACK [0xDE, 7]".toList = some (.response true [0xDE, 0x07]) := by decide
/-- R76: a byte is below 256, an address below 2^24. -/
theorem test_text_byte_too_large : readLine "OPBUF_WRITEN 0, [256]".toList = none := by decide
theorem test_text_address_too_large : readLine "READ_N 0x1000000, 1".toList = none := by decide
/-- R77. -/
theorem test_text_workflow : readLine "H_ERASE 0x2000, 3".toList = some (.workflow (.erase 0x002000 3)) := by decide

/-! ## Witnesses: for each statement of the certificate with hypotheses, a state and operands that meet all of them -/

theorem witness_opcodes_injective : Function.Injective (opcodeByte OpcodeMap.default) := by
  intro a b h
  revert h
  cases a <;> cases b <;> decide

/-- DecodeEncodeRoundTrip, at the ends of the operands' ranges. -/
theorem witness_DecodeEncodeRoundTrip :
    Function.Injective (opcodeByte OpcodeMap.default) ∧ (Instr.opbufWriten 0 0xFFFFFF []).wf = true
      ∧ (Instr.opbufWriten 1 0 [0xFF]).wf = true ∧ (Instr.readN 0xFFFFFF 0xFFFFFF).wf = true
      ∧ Instr.queryName.wf = true := ⟨witness_opcodes_injective, by decide⟩

theorem witness_EncodeDecodeRoundTrip :
    decodeFrame OpcodeMap.default [0x09, 0xFF, 0xFF, 0xFF, 0x00, 0x00, 0x00, 0x01]
      = .ok (.readN 0xFFFFFF 0, [0x01]) := rfl

/-- DecoderRejectsByName: one byte short of a header, and of the data, is truncated; exactly enough is not. -/
theorem witness_DecoderRejectsByName :
    decodeFails [0x09, 1, 2, 3, 4, 5] (.truncated .readN) = true
      ∧ decodes [0x09, 1, 0, 0, 2, 0, 0] (.readN 1 2) = true
      ∧ decodeFails [0x05, 1, 0, 0, 2, 0] (.truncated .opbufWriten) = true
      ∧ decodeFails [0x05, 1, 0, 0, 2, 0, 0] (.truncated .opbufWriten) = true
      ∧ decodes [0x05, 1, 0, 0, 2, 0, 0, 0xAA] (.opbufWriten 1 2 [0xAA]) = true
      ∧ decodeFails [0x00] (.unassigned 0x00) = true := by decide

theorem witness_IdleTakesOpcode : State.reset.dev.fsm = .idle := rfl

/-- HeaderBytesDecode: the first byte, the sixth byte of either format, and a length of 0 and of 1. -/
theorem witness_HeaderBytesDecode :
    (receiveAll [0x05] State.reset).dev.fsm = .rxHdr
      ∧ (receiveAll [0x05, 0, 0, 0, 2, 0] State.reset).dev.fsm = .rxHdr
      ∧ (receiveAll [0x05, 0, 0, 0, 2, 0, 0] State.reset).dev.fsm = .busy
      ∧ (receiveAll [0x05, 1, 0, 0, 2, 0, 0] State.reset).dev.fsm = .rxData
      ∧ (receiveAll [0x09, 1, 0, 0, 2, 0] State.reset).dev.fsm = .rxHdr
      ∧ (receiveAll [0x09, 1, 0, 0, 2, 0, 0] State.reset).dev.fsm = .busy := by decide

/-- DataBytesAreCounted: before the last byte, at the last, and past a buffer of 1. -/
theorem witness_DataBytesAreCounted :
    (receiveAll [0x05, 2, 0, 0, 2, 0, 0] State.reset).dev.fsm = .rxData
      ∧ (receiveAll [0x05, 2, 0, 0, 2, 0, 0, 9] State.reset).dev.fsm = .rxData
      ∧ (receiveAll [0x05, 2, 0, 0, 2, 0, 0, 9, 8] State.reset).dev.fsm = .busy
      ∧ (receiveAll [0x05, 3, 0, 0, 2, 0, 0, 9, 8] (withCfg fun c => { c with serbufCap := 1 })).dev.rxData = [9] := by
  decide

theorem witness_DeviceReceivesAndExecutes :
    Function.Injective (opcodeByte OpcodeMap.default) ∧ State.reset.dev.fsm = .idle
      ∧ (Instr.opbufWriten 2 5 [1, 2]).wf = true
      ∧ ({ wire := [], h2d := [0x05, 2, 0, 0, 5, 0, 0, 1, 2, 0x08], d2h := [] } : Link).h2d
          = encode OpcodeMap.default (.opbufWriten 2 5 [1, 2]) ++ [0x08] :=
  ⟨witness_opcodes_injective, by decide⟩

theorem witness_UnassignedOpcodeIsRejected :
    State.reset.dev.fsm = .idle ∧ ∀ op, opcodeByte OpcodeMap.default op ≠ 0x0C :=
  ⟨rfl, fun op => by cases op <;> decide⟩

/-- A state in BUSY with a request. -/
def busyWith (frame : List Byte) (s : State) : State := receiveAll frame s

theorem witness_BytesArrivingWhileBusy :
    State.reset.dev.fsm ≠ .busy
      ∧ (busyWith [0x08] (withCfg fun c => { c with rxWhileBusy := .buffered })).dev.fsm = .busy
      ∧ (busyWith [0x08] (withCfg fun c => { c with rxWhileBusy := .buffered })).cfg.rxWhileBusy = .buffered
      ∧ (busyWith [0x08] (withCfg fun c => { c with rxWhileBusy := .dropped })).dev.fsm = .busy
      ∧ (busyWith [0x08] (withCfg fun c => { c with rxWhileBusy := .dropped })).cfg.rxWhileBusy = .dropped
      ∧ (busyWith [0x08] State.reset).dev.fsm = .busy
      ∧ (busyWith [0x08] State.reset).cfg.rxWhileBusy = .either := by decide

/-- LinkCarriesBytesInOrder: outside BUSY with bytes on their way, more than are taken and fewer; the clauses in BUSY have the
states of BytesArrivingWhileBusy. -/
theorem witness_LinkCarriesBytesInOrder :
    (fun s : State => decide (s.dev.fsm ≠ .busy ∧ s.link.wire = 1 :: [2]
        ∧ (linkStep^[1] s).link.h2d = [9, 1] ∧ (linkStep^[3] s).link.h2d = [9, 1, 2]))
      { State.reset with link := { wire := [1, 2], h2d := [9], d2h := [] } } = true := by decide

theorem witness_StepRunsTheRequest :
    configViolation (busyWith [0x08] State.reset).cfg = none
      ∧ chooseAgent (busyWith [0x08] State.reset) = (some .device, busyWith [0x08] State.reset)
      ∧ (busyWith [0x08] State.reset).dev.fsm = .busy
      ∧ request (busyWith [0x08] State.reset) = some .opbufExec := by decide

/-- StepRefusesBadConfigurations: each constraint, just broken and just met. -/
theorem witness_StepRefusesBadConfigurations :
    configViolation { Config.default with pollLimit := 0 } = some .pollLimit
      ∧ configViolation { Config.default with pollLimit := 1 } = none
      ∧ configViolation { Config.default with chunkConst := 0 } = some .chunkConst
      ∧ configViolation { Config.default with chunkConst := 1 } = none
      ∧ configViolation { Config.default with boardName := List.replicate 17 0x41 } = some .boardName
      ∧ configViolation { Config.default with boardName := List.replicate 16 0x41 } = none
      ∧ configViolation { Config.default with ack := 0x15 } = some .ackNak
      ∧ configViolation { Config.default with opcodes := { OpcodeMap.default with readN := 0x08 } } = some .opcodes := by
  decide

theorem witness_StepFaultsOnlyWithoutSession :
    step (withHost { hostOpened 64 128 [] with sess := .closed, phase := some .hsName }) = .fault .transactNotOpen := by
  rfl

/-- ResetLeavesTheDeviceReady: a device reset pending in IDLE, in RX_HDR, in RX_DATA, and in BUSY. -/
theorem witness_ResetLeavesTheDeviceReady :
    [([] : List Byte), [0x09, 0x00], [0x05, 2, 0, 0, 2, 0, 0, 9], [0x08]].map
        (fun frame => ((receiveAll frame State.reset).dev.fsm,
          (outsideStep { receiveAll frame State.reset with
            env := { inputs := [.deviceReset, .hostCrash], script := [0, 0], draws := 0 } }).env.inputs))
      = [(.idle, [.hostCrash]), (.rxHdr, [.hostCrash]), (.rxData, [.hostCrash]), (.busy, [.hostCrash])] := by decide

/-- ResetCutsTheDrain, with an item of either mode staged. -/
theorem witness_ResetCutsTheDrain :
    (fun s : State => decide (1 ≤ s.cfg.pollLimit ∧ s.env.inputs = [.deviceReset] ∧ s.dev.fsm = .busy
        ∧ request s = some .opbufExec))
      { busyWith [0x08] (withOpbuf [polled 1 1, fast 2 2]) with
        env := { inputs := [.deviceReset], script := [], draws := 0 } } = true := by decide

/-- WritenStagesAllOrNothing: no data; exactly `serbuf_cap`; one more, whose data is not kept whole. -/
theorem witness_WritenStagesAllOrNothing :
    ([] : List Byte).length = (0 : U24).toNat
      ∧ (List.replicate 64 (0 : Byte)).length = (64 : U24).toNat ∧ ¬ State.reset.cfg.serbufCap.toNat < (64 : U24).toNat
      ∧ State.reset.cfg.serbufCap.toNat < (65 : U24).toNat := by decide

/-- SDP staging: an opbuf just too small for the unlock sequence and one just large enough. -/
theorem witness_sdp_clauses :
    sdpRefusal (withCfg fun c => { c with opbufCap := 5 }) Config.default.sdpClear = some .overflow
      ∧ sdpRefusal (withCfg fun c => { c with opbufCap := 6 }) Config.default.sdpClear = none
      ∧ sdpRefusal (withCfg fun c => { c with opbufCap := 2 }) Config.default.sdpSet = some .overflow
      ∧ sdpRefusal (withCfg fun c => { c with opbufCap := 3 }) Config.default.sdpSet = none := by decide

theorem witness_SingleCycleDriverOperations : BusIdle State.reset := ⟨rfl, rfl, rfl, rfl⟩

/-- PolledWriteOutcomes and OpbufExecPerformsItemsInOrder: the smallest budget; then the match in the last sample of the
budget and none in it, and a counter that saturates. -/
theorem witness_PolledWriteOutcomes :
    1 ≤ (withCfg fun c => { c with pollLimit := 1 }).cfg.pollLimit
      ∧ (drvPolledWrite 1 0 (answering [0x80, 0x7F] (withCfg fun c => { c with pollLimit := 2 }))).dev.errcnt = 0
      ∧ (drvPolledWrite 1 0 (answering [0x80, 0x80] (withCfg fun c => { c with pollLimit := 2 }))).dev.errcnt = 1 := by
  decide
theorem witness_OpbufExecPerformsItemsInOrder :
    1 ≤ (withOpbuf [polled 1 1, fast 2 2]).cfg.pollLimit := by decide

theorem witness_BusCyclesAreBounded :
    (∃ t, exec .opbufExec State.reset = .next t) ∧ (∃ t, exec (.readN 5 3) State.reset = .next t)
      ∧ ∃ t, exec .opbufInit State.reset = .next t := ⟨⟨_, rfl⟩, ⟨_, rfl⟩, ⟨_, rfl⟩⟩

theorem witness_ReadNIgnoresStagedItems : ∃ t, exec (.readN 5 3) State.reset = .next t := ⟨_, rfl⟩

theorem witness_ReadNOnReferenceChip :
    ({ State.reset with chip := .reference (refChip [(5, 1)] 0) }).chip = .reference (refChip [(5, 1)] 0)
      ∧ (refChip [(5, 1)] 0).busy = none ∧ (refChip [(5, 1)] 0).never = [] := by decide

/-- ReferenceChipKeepsWrittenBytes: busy for all but the last sample of the budget, across the top of the space. -/
theorem witness_ReferenceChipKeepsWrittenBytes :
    (refChip [(5, 1)] 499).locked = false ∧ (refChip [(5, 1)] 499).busy = none ∧ (refChip [(5, 1)] 499).held = []
      ∧ (refChip [(5, 1)] 499).never = [] ∧ (refChip [(5, 1)] 499).mem.wf
      ∧ (refChip [(5, 1)] 499).busyLen < Config.default.pollLimit
      ∧ [0x11, 0x22].length ≤ 2 ^ 24
      ∧ (withOpbuf (writeItems 0xFFFFFF [0x11, 0x22])).dev.opbuf = writeItems 0xFFFFFF [0x11, 0x22]
      ∧ ∀ it ∈ writeItems 0xFFFFFF [0x11, 0x22],
          Config.default.sdpSet.head? ≠ some (it.addr, it.value)
            ∧ Config.default.sdpClear.head? ≠ some (it.addr, it.value) := by decide

/-- CommandsChangeOnlyTheirState: a command of each kind. -/
theorem witness_CommandsChangeOnlyTheirState :
    (∃ t, exec .opbufInit State.reset = .next t) ∧ (∃ t, exec .opbufExec State.reset = .next t)
      ∧ (∃ t, exec .opbufSetSdp State.reset = .next t) ∧ (∃ t, exec .queryName State.reset = .next t)
      ∧ (∃ t, exec .errorcntReset State.reset = .next t) ∧ ∃ t, exec (.readN 0 1) State.reset = .next t :=
  ⟨⟨_, rfl⟩, ⟨_, rfl⟩, ⟨_, rfl⟩, ⟨_, rfl⟩, ⟨_, rfl⟩, ⟨_, rfl⟩⟩

/-- The device's invariant holds with a request placed, and the step answers a next state. -/
theorem witness_DeviceInvariantKept :
    DeviceInv (busyWith [0x06] State.reset) ∧ ∃ t, step (busyWith [0x06] State.reset) = .next t := by
  refine ⟨⟨by unfold OpbufBounded; decide, ⟨rfl, rfl, rfl, rfl⟩, by decide, ?_⟩, ⟨_, rfl⟩⟩
  exact ⟨fun h => absurd h (by decide), fun h => absurd h (by decide), fun _ h => absurd h (by decide)⟩

/-- The host's invariant holds before a call, and the step answers a next state. -/
theorem witness_HostInvariantKept :
    HostInv (withHost (hostOpened 64 128 [.setLock]))
      ∧ ∃ t, step (withHost (hostOpened 64 128 [.setLock])) = .next t := by
  refine ⟨⟨?_, ?_, rfl, ?_, ?_, ?_, ?_, ?_⟩, ⟨_, rfl⟩⟩
  · intro h; exact absurd h (by decide)
  · intro h; exact absurd h (by decide)
  · intro j h; cases h
  · intro j h; cases h
  · intro j h; cases h
  · intro a d h; cases h
  · intro p j h; cases h

/-- Three bytes by an explicit 2, at the second chunk: before its OPBUF_WRITEN (nothing staged) or after it (one byte). -/
def midWrite (phase : Phase) (staged : Nat) : State :=
  withHost { hostOpened 64 128 [] with phase := some phase, wOff := 2, wStaged := staged, wChunk := 2 }
def midJob : WriteJob := { addr := 0x1000, data := [1, 2, 3], nak0 := 0, erase := false }

/-- The host's invariant holds at the start of a write's last chunk, and the step answers a next state. -/
theorem witness_HostInvariantKept_writeStage :
    HostInv (midWrite (.writeStage midJob) 0) ∧ ∃ t, step (midWrite (.writeStage midJob) 0) = .next t := by
  refine ⟨⟨?_, ?_, rfl, ?_, ?_, ?_, ?_, ?_⟩, ⟨_, rfl⟩⟩
  · intro h; exact absurd h (by decide)
  · intro h; exact absurd h (by decide)
  · intro j h; cases h
  · intro j h; cases h; decide
  · intro j h; cases h
  · intro a d h; cases h
  · intro p j h hj; cases h; cases hj; decide

/-- The host's invariant holds when that chunk is staged, and the step answers a next state. -/
theorem witness_HostInvariantKept_writeExec :
    HostInv (midWrite (.writeExec midJob) 1) ∧ ∃ t, step (midWrite (.writeExec midJob) 1) = .next t := by
  refine ⟨⟨?_, ?_, rfl, ?_, ?_, ?_, ?_, ?_⟩, ⟨_, rfl⟩⟩
  · intro h; exact absurd h (by decide)
  · intro h; exact absurd h (by decide)
  · intro j h; cases h
  · intro j h; cases h
  · intro j h; cases h; decide
  · intro a d h; cases h
  · intro p j h hj; cases h; cases hj; decide

theorem witness_ChipCellsStayCanonical :
    (chipMemory { busyWith [0x08] (withOpbuf [polled 1 1]) with chip := .reference (refChip [(5, 1)] 0) }).wf
      ∧ ∃ t, step { busyWith [0x08] (withOpbuf [polled 1 1]) with chip := .reference (refChip [(5, 1)] 0) } = .next t :=
  ⟨by decide, ⟨_, rfl⟩⟩

theorem witness_ConfigurationNeverChanges : ∃ t, step State.reset = .next t := ⟨_, rfl⟩

/-- ErrorCounterIsMonotonic: the counter cleared, and raised, and cleared by a device reset. -/
theorem witness_ErrorCounterIsMonotonic :
    after (fun t => t.dev.errcnt) (step { busyWith [0x0B] (withErrcnt 7) with chip := .agent [] }) = some 0
      ∧ after (fun t => t.dev.errcnt)
          (step (answering [0x80] { busyWith [0x08] (withOpbuf [polled 1 0]) with
            cfg := { Config.default with pollLimit := 1 } })) = some 1
      ∧ after (fun t => t.dev.errcnt)
          (step { withErrcnt 7 with env := { inputs := [.deviceReset], script := [], draws := 0 } }) = some 0 := by decide

theorem witness_DeviceSendsNothingUnsolicited :
    State.reset.dev.fsm ≠ .busy ∧ ∃ t, step State.reset = .next t := ⟨by decide, ⟨_, rfl⟩⟩

/-- HostMovesLeaveTheDevice: a request sent. -/
theorem witness_HostMovesLeaveTheDevice :
    ∃ t, hostStep (withHost { hostOpened 64 128 [] with phase := some .hsName }) = .next t := ⟨_, rfl⟩

/-- The host of a running program with an open session, under this policy. -/
def underPolicy (policy : NakPolicy) (serbuf : U16) : State :=
  { withHost (hostOpened serbuf 128 []) with cfg := { Config.default with nakPolicy := policy } }

/-- HandshakeFixedOrder: a status other than `P_ACK` under `ProceedReported`, and only `P_ACK` under `Fatal`. -/
theorem witness_HandshakeFixedOrder :
    (underPolicy .fatal 64).host.sess = .opened
      ∧ (List.replicate 16 (0x41 : Byte)).length = 16
      ∧ GoesOn (underPolicy .proceedReported 64).cfg
          [(0x15, List.replicate 16 0x41), (0x06, [0x80, 0x00]), (0x06, [0x40, 0x00]), (0x42, [])]
      ∧ GoesOn (underPolicy .fatal 64).cfg
          [(0x06, List.replicate 16 0x41), (0x06, [0x80, 0x00]), (0x06, [0x40, 0x00]), (0x06, [])] :=
  ⟨rfl, rfl, .inl rfl, .inr (by decide)⟩

/-- RequestsAreSentWhole: with a session open and with none. -/
theorem witness_RequestsAreSentWhole :
    (withHost { hostOpened 64 128 [] with phase := some .hsName }).host.phase = some .hsName
      ∧ (withHost { hostOpened 64 128 [] with phase := some .hsName }).host.sent = false
      ∧ (withHost { hostOpened 64 128 [] with phase := some .hsName }).host.sess = .opened
      ∧ (withHost { hostOpened 64 128 [] with phase := some .hsName, sess := .aborted }).host.sess ≠ .opened := by decide

/-- NonAckStatusIsReported: `P_NAK` and another byte, under either policy, with a byte after the response and with none. -/
theorem witness_NonAckStatusIsReported :
    [0x15, 0x99] = (0x15 : Byte) :: [] ++ ([0x99] : List Byte) ∧ [0x42] = (0x42 : Byte) :: [] ++ ([] : List Byte)
      ∧ ([] : List Byte).length = payloadLength (phaseRequest HostSide.reset (.lockStage true 0))
      ∧ (0x15 : Byte) ≠ Config.default.ack ∧ (0x42 : Byte) ≠ Config.default.ack
      ∧ (0x06 : Byte) = opcodeByte OpcodeMap.default (phaseRequest HostSide.reset (.lockStage true 0)).opcode
      ∧ (underPolicy .proceedReported 64).cfg.nakPolicy = .proceedReported
      ∧ (underPolicy .fatal 64).cfg.nakPolicy = .fatal := by decide

/-- AckResponseIsTaken: with bytes after the response, and with none. -/
theorem witness_AckResponseIsTaken :
    [0x06, 0x40, 0x00, 0x99] = Config.default.ack :: [0x40, 0x00] ++ ([0x99] : List Byte)
      ∧ [0x06, 0x40, 0x00] = Config.default.ack :: [0x40, 0x00] ++ ([] : List Byte)
      ∧ ([0x40, 0x00] : List Byte).length = payloadLength (phaseRequest HostSide.reset .hsSerbufSize) := by decide

theorem witness_TimeoutAbortsTheSession :
    (withHost { hostOpened 64 128 [] with phase := some .hsName, sent := true }).host.phase = some .hsName := rfl

/-- ChunkSizeIsTheLeastBound: each of the three bounds the least, and 0. -/
theorem witness_ChunkSizeIsTheLeastBound :
    defaultChunk (withHost (hostOpened 16 128 [])) = 16 ∧ defaultChunk (withHost (hostOpened 200 128 [])) = 64
      ∧ defaultChunk (withHost (hostOpened 64 32 [])) = 32 ∧ defaultChunk (withHost (hostOpened 64 0 [])) = 0
      ∧ defaultChunk (withHost (hostOpened 64 1 [])) = 1 := by decide

/-- LongLengthsAreParamErrors: exactly 2^24, of a length and of a chunk; and a default chunk size of 0 and of 1. -/
theorem witness_LongLengthsAreParamErrors :
    2 ^ 24 ≤ (2 ^ 24 : Nat) ∧ (∃ d : List Byte, 2 ^ 24 ≤ d.length ∧ 2 ^ 24 ≤ min (2 ^ 24) d.length)
      ∧ defaultChunk (withHost (hostOpened 64 0 [])) = 0 ∧ defaultChunk (withHost (hostOpened 64 1 [])) ≠ 0 :=
  ⟨Nat.le_refl _, ⟨List.replicate (2 ^ 24) 0, by rw [List.length_replicate, Nat.min_self]; exact ⟨Nat.le_refl _, Nat.le_refl _⟩⟩,
    by decide, by decide⟩

/-- R131: an explicit chunk size of 0. -/
theorem test_write_explicit_zero :
    after (fun t => (t.host.results, t.link.wire)) (hostStep (withHost (hostOpened 64 128 [.write 0x10 [1] (some 0)])))
      = some ([.paramError .chunk], []) := by decide

/-- WriteSendsChunksThenCount: four bytes by an explicit 3 and by the default of 2, and no data; a status other than `P_ACK`
under `ProceedReported`, and only `P_ACK` under `Fatal`. -/
theorem witness_WriteSendsChunksThenCount :
    (underPolicy .fatal 2).host.sess = .opened ∧ defaultChunk (underPolicy .fatal 2) ≠ 0
      ∧ 3 = (some 3).getD (defaultChunk (underPolicy .fatal 2)) ∧ 2 = none.getD (defaultChunk (underPolicy .fatal 2))
      ∧ min 3 [1, 2, 3, 4].length < 2 ^ 24
      ∧ (List.replicate 4 ((0x06 : Byte), ([] : List Byte))).length = (writeFrames 0x1000 3 [1, 2, 3, 4]).length
      ∧ (List.replicate 4 ((0x06 : Byte), ([] : List Byte))).length = (writeFrames 0x1000 2 [1, 2, 3, 4]).length
      ∧ ([] : List (Byte × List Byte)).length = (writeFrames 0x1000 2 []).length
      ∧ (∀ q ∈ List.replicate 4 ((0x06 : Byte), ([] : List Byte)), q.2 = [])
      ∧ GoesOn (underPolicy .fatal 2).cfg (List.replicate 4 (0x06, []) ++ [(0x06, [1, 0, 0, 0])])
      ∧ GoesOn (underPolicy .proceedReported 2).cfg (List.replicate 4 (0x15, []) ++ [(0x42, [1, 0, 0, 0])]) :=
  ⟨rfl, by decide, rfl, rfl, by decide, by decide, by decide, by decide, by decide, .inr (by decide), .inl rfl⟩

/-- R131's example, k = 2, run: the second chunk is refused and reported, and the counter is 0x0102. -/
theorem test_write_runs :
    (fun x : List Instr × State => (x.1, x.2.host.results))
        (hostRun [(0x06, []), (0x06, []), (0x15, []), (0x06, []), (0x06, [2, 1, 0, 0])]
          (startCall (.write 0x1000 [0xDE, 0xAD, 0xBE, 0xEF] (some 2)) (underPolicy .proceedReported 64)))
      = ([.opbufWriten 2 0x001000 [0xDE, 0xAD], .opbufExec, .opbufWriten 2 0x001002 [0xBE, 0xEF], .opbufExec,
          .errorcntQuery], [.write 0x00000102 true]) := by decide

/-- EraseWritesThenBlankChecks: three cells by 2. -/
theorem witness_EraseWritesThenBlankChecks :
    (underPolicy .fatal 2).host.sess = .opened ∧ defaultChunk (underPolicy .fatal 2) ≠ 0 ∧ 3 < 2 ^ 24
      ∧ (List.replicate 4 ((0x06 : Byte), ([] : List Byte))).length
          = (writeFrames 0x2000 (defaultChunk (underPolicy .fatal 2)) (List.replicate 3 0xFF)).length
      ∧ (∀ q ∈ List.replicate 4 ((0x06 : Byte), ([] : List Byte)), q.2 = [])
      ∧ ([0xFF, 0xFF, 0x00] : List Byte).length = 3
      ∧ GoesOn (underPolicy .fatal 2).cfg
          (List.replicate 4 (0x06, []) ++ [(0x06, [0, 0, 0, 0]), (0x06, [0xFF, 0xFF, 0x00])]) :=
  ⟨rfl, by decide, by decide, by decide, by decide, rfl, .inr (by decide)⟩

theorem witness_LockWorkflowsStageThenCommit :
    (underPolicy .fatal 64).host.sess = .opened ∧ GoesOn (underPolicy .fatal 64).cfg [(0x06, []), (0x06, [])]
      ∧ GoesOn (underPolicy .proceedReported 64).cfg [(0x15, []), (0x06, [])] := ⟨rfl, .inr (by decide), .inl rfl⟩

/-- ReadAndVerifySendOneRead: no bytes, and two, of which one differs. -/
theorem witness_ReadAndVerifySendOneRead :
    (underPolicy .fatal 64).host.sess = .opened ∧ 0 < 2 ^ 24 ∧ ([] : List Byte).length = 0 ∧ 2 < 2 ^ 24
      ∧ ([1, 2] : List Byte).length = 2 ∧ ([1, 3] : List Byte).length = 2
      ∧ GoesOn (underPolicy .fatal 64).cfg [(0x06, [1, 2])]
      ∧ GoesOn (underPolicy .proceedReported 64).cfg [(0x15, [1, 2])] :=
  ⟨rfl, by decide, rfl, by decide, rfl, rfl, .inr (by decide), .inl rfl⟩

/-- ProgramsStartAndEnd: a program's start pending, a call to make, and none left. -/
theorem witness_ProgramsStartAndEnd :
    ({ State.reset with env := { inputs := [.startHost [.setLock]], script := [], draws := 0 } }).env.inputs
        = .startHost [.setLock] :: []
      ∧ (withHost (hostOpened 64 128 [.setLock])).host.phase = none
      ∧ (withHost (hostOpened 64 128 [.setLock])).host.calls = .setLock :: []
      ∧ (withHost (hostOpened 64 128 [])).host.calls = [] := by decide

/-- WriteFrameCount: four bytes by 3 (a short last chunk), by 4, by 5, and none. -/
theorem witness_WriteFrameCount :
    (underPolicy .fatal 64).host.sess = .opened ∧ defaultChunk (underPolicy .fatal 64) ≠ 0 ∧ 1 ≤ 3
      ∧ min 3 [1, 2, 3, 4].length < 2 ^ 24
      ∧ (List.replicate 4 ((0x06 : Byte), ([] : List Byte))).length = 2 * (([1, 2, 3, 4].length + 3 - 1) / 3)
      ∧ (List.replicate 2 ((0x06 : Byte), ([] : List Byte))).length = 2 * (([1, 2, 3, 4].length + 4 - 1) / 4)
      ∧ (List.replicate 2 ((0x06 : Byte), ([] : List Byte))).length = 2 * (([1, 2, 3, 4].length + 5 - 1) / 5)
      ∧ ([] : List (Byte × List Byte)).length = 2 * ((([] : List Byte).length + 3 - 1) / 3)
      ∧ (∀ q ∈ List.replicate 4 ((0x06 : Byte), ([] : List Byte)), q.2 = [])
      ∧ ([1, 0, 0, 0] : List Byte).length = 4
      ∧ GoesOn (underPolicy .fatal 64).cfg (List.replicate 4 (0x06, []) ++ [(0x06, [1, 0, 0, 0])]) :=
  ⟨rfl, by decide, by decide, by decide, by decide, by decide, by decide, by decide, by decide, rfl, .inr (by decide)⟩

/-- ChunkedWriteIsNeverRefused and ChunkingIsTransparent: the smallest and the largest chunk of the default capacities. -/
theorem witness_ChunkedWriteIsNeverRefused :
    1 ≤ 64 ∧ 64 ≤ State.reset.cfg.serbufCap.toNat ∧ 64 ≤ State.reset.cfg.opbufCap.toNat ∧ State.reset.dev.opbuf = [] := by
  decide
theorem witness_ChunkingIsTransparent :
    1 ≤ 1 ∧ 1 ≤ State.reset.cfg.serbufCap.toNat ∧ 1 ≤ State.reset.cfg.opbufCap.toNat ∧ State.reset.dev.opbuf = [] := by
  decide

end Sys2Proof.Tests
end

section
/-! The refusal of a configuration (R8, R141): what `configViolation` tests, and that no agent's move is refused, so that the
check of R8 is the only source of a refused step. -/
namespace Sys2Proof.Machine

/-- `allOpcodes` lists every opcode once, so the bytes a map gives them differ exactly if it is injective: the test of R8 (5). -/
theorem nodup_map_allOpcodes {f : Opcode → Byte} : (allOpcodes.map f).Nodup ↔ Function.Injective f := by
  have hnodup : allOpcodes.Nodup := by decide
  rw [List.nodup_map_iff_inj_on hnodup]
  exact ⟨fun h a b hab => h a (mem_allOpcodes a) b (mem_allOpcodes b) hab, fun h a _ b _ hab => h hab⟩

/-- A configuration breaks no constraint exactly if it meets all five of R8. -/
theorem configViolation_eq_none {c : Config} :
    configViolation c = none ↔
      1 ≤ c.pollLimit ∧ 1 ≤ c.chunkConst ∧ c.boardName.length ≤ 16 ∧ c.ack ≠ c.nak
        ∧ Function.Injective (opcodeByte c.opcodes) := by
  simp only [configViolation, ite_eq_iff, nodup_map_allOpcodes, reduceCtorEq, and_false, and_true, false_or, not_lt, not_not,
    ne_eq]

/-- A move of the device answers a next state. -/
theorem deviceStep_next (s : State) : ∃ t, deviceStep s = .next t := by
  unfold deviceStep
  split
  case h_1 =>
    unfold executeRequest
    split
    · exact exec_next _ s
    · exact ⟨_, rfl⟩
  all_goals exact ⟨_, rfl⟩

/-- A move of the host is never refused: it answers a next state, or the fault of a `Transact` without an open session. -/
theorem hostStep_ne_refused (s : State) (r : Refusal) : hostStep s ≠ .refused r := by
  unfold hostStep
  repeat' split
  all_goals exact nofun

/-- No agent's move is refused. -/
theorem agentStep_ne_refused (a : Agent) (s : State) (r : Refusal) : agentStep a s ≠ .refused r := by
  cases a with
  | device =>
    obtain ⟨t, ht⟩ := deviceStep_next s
    simp [agentStep, ht]
  | host => exact hostStep_ne_refused s r
  | link | timer | outside => simp [agentStep]

/-- A step is refused exactly for the constraint of R8 that the configuration breaks, and records it (R141). -/
theorem step_eq_refused {s : State} {r : Refusal} :
    step s = .refused r ↔ ∃ c, configViolation s.cfg = some c ∧ r = .configRefused c := by
  unfold step machineStep
  split
  case h_1 c hc => simp [hc, eq_comm]
  case h_2 hc =>
    simp only [hc, reduceCtorEq, false_and, exists_false, iff_false]
    split
    · exact nofun
    · exact agentStep_ne_refused _ _ r

/-- Settles O14: a step is refused exactly where `configViolation` answers a constraint, and it answers none exactly where all
five hold. -/
theorem stepRefusesBadConfigurations : Obligations.StepRefusesBadConfigurations := by
  intro s
  have hrefused : (∃ r, step s = .refused r) ↔ configViolation s.cfg ≠ none := by
    simp [step_eq_refused, Option.ne_none_iff_exists']
  rw [hrefused, ne_eq, configViolation_eq_none]
  simp only [not_and_or, not_le, Nat.lt_one_iff, ne_eq, not_not]

end Sys2Proof.Machine
end

section
/-! The host's moves and the device: no move of the host or its timer, and no program's start or crash, reaches the device, the
chip or the bytes waiting at the device (R142, R117). -/
namespace Sys2Proof.Machine

/-- What a move of the host leaves as it was: the configuration, the device, the chip with its record of bus cycles, and the
bytes waiting at the device. -/
structure DeviceSideKept (s t : State) : Prop where
  cfg : t.cfg = s.cfg
  dev : t.dev = s.dev
  chip : t.chip = s.chip
  busLog : t.busLog = s.busLog
  h2d : t.link.h2d = s.link.h2d

theorem DeviceSideKept.refl (s : State) : DeviceSideKept s s := ⟨rfl, rfl, rfl, rfl, rfl⟩

theorem DeviceSideKept.trans {s t u : State} (h : DeviceSideKept s t) (k : DeviceSideKept t u) : DeviceSideKept s u :=
  ⟨k.cfg.trans h.cfg, k.dev.trans h.dev, k.chip.trans h.chip, k.busLog.trans h.busLog, k.h2d.trans h.h2d⟩

/-- An update of the host's registers or of the environment comes for free. -/
theorem DeviceSideKept.of_update {s u : State} {host : HostSide} {env : Env}
    (h : DeviceSideKept { s with host := host, env := env } u) : DeviceSideKept s u :=
  ⟨h.cfg, h.dev, h.chip, h.busLog, h.h2d⟩

theorem draw_keepsDeviceSide (s : State) : DeviceSideKept s (draw s).2 := by constructor <;> simp

theorem hostFatal_keepsDeviceSide (cls : ErrorClass) (e : LogEntry) (s : State) :
    DeviceSideKept s (hostFatal cls e s) := by constructor <;> simp

theorem flushInput_keepsDeviceSide (extra : List Byte) (s : State) : DeviceSideKept s (flushInput extra s) := by
  obtain ⟨env, late, -, h⟩ := flushInput_eq extra s
  rw [h]
  exact ⟨rfl, rfl, rfl, rfl, rfl⟩

theorem cutWire_keepsDeviceSide (s : State) : DeviceSideKept s (cutWire s) := by
  obtain ⟨env, w, -, h⟩ := cutWire_eq s
  rw [h]
  exact ⟨rfl, rfl, rfl, rfl, rfl⟩

theorem openLink_keepsDeviceSide (s : State) : DeviceSideKept s (openLink s) := by
  obtain ⟨env, late, -, h⟩ := openLink_eq s
  rw [h]
  exact ⟨rfl, rfl, rfl, rfl, rfl⟩

theorem writeNext_keepsDeviceSide (j : WriteJob) (s : State) : DeviceSideKept s (writeNext j s) := by
  unfold writeNext
  repeat' split
  all_goals exact ⟨rfl, rfl, rfl, rfl, rfl⟩

theorem startWrite_keepsDeviceSide (a : Addr) (d : List Byte) (k : Option Nat) (erase : Bool) (s : State) :
    DeviceSideKept s (startWrite a d k erase s) := by
  simp only [startWrite]
  split
  · exact ⟨rfl, rfl, rfl, rfl, rfl⟩
  · split
    · exact ⟨rfl, rfl, rfl, rfl, rfl⟩
    · exact .of_update (writeNext_keepsDeviceSide _ _)

theorem hostOpen_keepsDeviceSide (s : State) : DeviceSideKept s (hostOpen s) := by
  unfold hostOpen
  split
  · exact (draw_keepsDeviceSide s).trans (hostFatal_keepsDeviceSide _ _ _)
  · exact ((draw_keepsDeviceSide s).trans (openLink_keepsDeviceSide _)).trans ⟨rfl, rfl, rfl, rfl, rfl⟩

theorem startCall_keepsDeviceSide (c : Call) (s : State) : DeviceSideKept s (startCall c s) := by
  cases c with
  | session => exact hostOpen_keepsDeviceSide s
  | write a d k => exact startWrite_keepsDeviceSide a d k false s
  | erase a n =>
    simp only [startCall]
    split
    · exact ⟨rfl, rfl, rfl, rfl, rfl⟩
    · exact startWrite_keepsDeviceSide a _ none true s
  | read | verify =>
    simp only [startCall]
    split <;> exact ⟨rfl, rfl, rfl, rfl, rfl⟩
  | close | setLock | clearLock => exact ⟨rfl, rfl, rfl, rfl, rfl⟩

theorem advance_keepsDeviceSide (p : Phase) (st : Byte) (payload : List Byte) (s : State) :
    DeviceSideKept s (advance p st payload s) := by
  cases p with
  | writeExec j => exact .of_update (writeNext_keepsDeviceSide j _)
  | writeCount j =>
    simp only [advance]
    split <;> exact ⟨rfl, rfl, rfl, rfl, rfl⟩
  | _ => exact ⟨rfl, rfl, rfl, rfl, rfl⟩

theorem takeResponse_keepsDeviceSide (p : Phase) (s : State) : DeviceSideKept s (takeResponse p s) := by
  have hflush := fun extra => flushInput_keepsDeviceSide extra s
  have hcount := fun opcode st t => (⟨rfl, rfl, rfl, rfl, rfl⟩ : DeviceSideKept t (countStatus opcode st t))
  simp only [takeResponse]
  split
  · exact .refl s
  · split
    · exact (hflush _).trans (advance_keepsDeviceSide _ _ _ _)
    · split
      · exact ((hflush _).trans (hcount _ _ _)).trans (advance_keepsDeviceSide _ _ _ _)
      · exact ((hflush _).trans (hcount _ _ _)).trans (hostFatal_keepsDeviceSide _ _ _)

/-- A move of the host leaves the device's side as it is. -/
theorem hostStep_keepsDeviceSide {s t : State} (h : hostStep s = .next t) : DeviceSideKept s t := by
  unfold hostStep at h
  split at h
  · split at h
    · cases h
      exact ⟨rfl, rfl, rfl, rfl, rfl⟩
    · cases h
      exact .of_update (startCall_keepsDeviceSide _ _)
  · split at h
    · cases h
      exact takeResponse_keepsDeviceSide _ s
    · split at h
      · cases h
        exact ⟨rfl, rfl, rfl, rfl, rfl⟩
      · cases h

theorem hostTimeout_keepsDeviceSide (i : Instr) (s : State) : DeviceSideKept s (hostTimeout i s) := by
  have hdrop : DeviceSideKept s { (draw s).2 with
      link := { (draw s).2.link with
        d2h := (draw s).2.link.d2h.drop (drawBelow (min s.link.d2h.length (payloadLength i) + 1) s).1 } } :=
    (draw_keepsDeviceSide s).trans ⟨rfl, rfl, rfl, rfl, rfl⟩
  exact (hdrop.trans (cutWire_keepsDeviceSide _)).trans (hostFatal_keepsDeviceSide _ _ _)

/-- The response timer's expiry leaves the device's side as it is. -/
theorem timerStep_keepsDeviceSide (s : State) : DeviceSideKept s (timerStep s) := by
  unfold timerStep
  split
  · exact .refl s
  · exact hostTimeout_keepsDeviceSide _ s

theorem hostCrash_keepsDeviceSide (s : State) : DeviceSideKept s (hostCrash s) :=
  (cutWire_keepsDeviceSide s).trans ⟨rfl, rfl, rfl, rfl, rfl⟩

end Sys2Proof.Machine
end

section
/-! What a step can do to the device, said once: nothing, one move of the device itself, or a device reset. -/
namespace Sys2Proof.Machine

/-- A byte that arrives changes the bytes waiting at the device and the environment only. -/
theorem arrive_eq (b : Byte) (s : State) :
    ∃ env h2d, arrive b s = { s with env := env, link := { s.link with h2d := h2d } } := by
  obtain ⟨env, he, -⟩ := draw_env s
  unfold arrive
  split
  case h_1 =>
    split
    · exact ⟨s.env, s.link.h2d ++ [b], rfl⟩
    · exact ⟨s.env, s.link.h2d, rfl⟩
    · rw [drawBool_state, he]
      split
      · exact ⟨env, s.link.h2d ++ [b], rfl⟩
      · exact ⟨env, s.link.h2d, rfl⟩
  all_goals exact ⟨s.env, s.link.h2d ++ [b], rfl⟩

/-- A step of the link changes the link and the environment only. -/
theorem linkStep_frame (s : State) : ∃ env link, linkStep s = { s with env := env, link := link } := by
  unfold linkStep
  split
  · exact ⟨s.env, s.link, rfl⟩
  case h_2 b rest _ =>
    obtain ⟨env, h2d, h⟩ := arrive_eq b { s with link := { s.link with wire := rest } }
    exact ⟨env, { s.link with wire := rest, h2d := h2d }, h⟩

/-- A pending device reset cuts the command in progress, resets the device and is used up (R161, R162). -/
theorem outsideStep_deviceReset {s : State} {rest : List Input} (h : s.env.inputs = .deviceReset :: rest) :
    outsideStep s = deviceReset (cutCommand { s with env := { s.env with inputs := rest } }) := by
  simp only [outsideStep, h]

/-- The input that lands is a device reset, or it leaves the device's side as it is. -/
theorem outsideStep_cases (s : State) :
    (∃ rest, s.env.inputs = .deviceReset :: rest) ∨ DeviceSideKept s (outsideStep s) := by
  unfold outsideStep
  split
  · exact .inr (.refl s)
  case h_2 input rest hinputs =>
    cases input with
    | deviceReset => exact .inl ⟨rest, hinputs⟩
    | hostCrash => exact .inr (.of_update (hostCrash_keepsDeviceSide _))
    | startHost calls => exact .inr ⟨rfl, rfl, rfl, rfl, rfl⟩
    | rawByte b => exact .inr ⟨rfl, rfl, rfl, rfl, rfl⟩

/-- A move of the device takes a byte, executes the complete request, or rejects an unassigned opcode (R93 to R96, R106). -/
theorem deviceStep_cases {s t : State} (h : deviceStep s = .next t) :
    (s.dev.fsm ≠ .busy ∧ t = takeByte s)
    ∨ (s.dev.fsm = .busy ∧ ∃ i, request s = some i ∧ exec i s = .next t)
    ∨ (s.dev.fsm = .busy ∧ request s = none ∧ t = rejectUnassigned s) := by
  unfold deviceStep at h
  split at h
  case h_1 hbusy =>
    unfold executeRequest at h
    split at h
    case h_1 i hi => exact .inr (.inl ⟨hbusy, i, hi, h⟩)
    case h_2 hnone =>
      cases h
      exact .inr (.inr ⟨hbusy, hnone, rfl⟩)
  all_goals
    rename_i hfsm
    cases h
    exact .inl ⟨by simp [hfsm], rfl⟩

/-- A step leaves the device as it is, or is the device's own move but for the choices taken, or lands a pending device
reset. -/
theorem step_device_cases {s t : State} (h : step s = .next t) :
    (t.cfg = s.cfg ∧ t.dev = s.dev)
    ∨ (∃ env, deviceStep { s with env := env } = .next t)
    ∨ (∃ rest, s.env.inputs = .deviceReset :: rest ∧ t.env.inputs = rest ∧ t.cfg = s.cfg ∧ t.dev = Device.reset) := by
  obtain ⟨env, hinputs, rfl | ⟨a, -, ha⟩⟩ := step_next_cases h
  · exact .inl ⟨rfl, rfl⟩
  · cases a with
    | device => exact .inr (.inl ⟨env, ha⟩)
    | link =>
      obtain ⟨env', link, hlink⟩ := linkStep_frame { s with env := env }
      cases ha
      rw [hlink]
      exact .inl ⟨rfl, rfl⟩
    | host =>
      have hkept := hostStep_keepsDeviceSide ha
      exact .inl ⟨hkept.cfg, hkept.dev⟩
    | timer =>
      cases ha
      have hkept := timerStep_keepsDeviceSide { s with env := env }
      exact .inl ⟨hkept.cfg, hkept.dev⟩
    | outside =>
      cases ha
      obtain ⟨rest, hreset⟩ | hkept := outsideStep_cases { s with env := env }
      · have hcut := cutCommand_cutFrame { s with env := { env with inputs := rest } }
        rw [outsideStep_deviceReset hreset]
        exact .inr (.inr ⟨rest, hinputs.symm.trans hreset, hcut.inputs, hcut.cfg, rfl⟩)
      · exact .inl ⟨hkept.cfg, hkept.dev⟩

end Sys2Proof.Machine
end

section
/-! What the driver does to its own registers: the bus is idle after every operation (R84), `poll_cnt` stays within the budget
(R28), and the error counter does not fall (R23). -/
namespace Sys2Proof.Machine

/-- The saturating increment never decreases (R9). -/
theorem le_satInc32 (n : U32) : n.toNat ≤ (satInc32 n).toNat := by
  unfold satInc32
  split
  · exact le_rfl
  · bv_omega

/-- The polling loop takes at most `left` samples, counts at most one failure, and disables the chip; with the output already
disabled it changes no other register (R88). -/
theorem pollLoop_dev (v : Byte) (left : Nat) (s : State) (hoe : s.dev.bus.oe = false) :
    ∃ n errcnt, n ≤ left ∧ s.dev.errcnt.toNat ≤ errcnt.toNat
      ∧ (pollLoop v left s).dev =
        { s.dev with
          bus := { s.dev.bus with oe := false, ce := false }, pollCnt := s.dev.pollCnt + n, errcnt := errcnt } := by
  induction left generalizing s with
  | zero =>
    exact ⟨0, satInc32 s.dev.errcnt, le_rfl, le_satInc32 _,
      by simp [pollLoop, countPollFailure, setChipEnable, setErrcnt, hoe]⟩
  | succ left ih =>
    have hsample : (pollSample s).2.dev =
        { s.dev with bus := { s.dev.bus with oe := false }, pollCnt := s.dev.pollCnt + 1 } := by rw [pollSample_eq]
    unfold pollLoop
    split
    · exact ⟨1, s.dev.errcnt, by omega, le_rfl, by simp only [setChipEnable, hsample]⟩
    · obtain ⟨n, errcnt, hn, herr, hdev⟩ := ih (pollSample s).2 (by rw [hsample])
      rw [hsample] at herr hdev
      exact ⟨n + 1, errcnt, by omega, herr, by rw [hdev, Nat.add_assoc, Nat.add_comm 1 n]⟩

/-- A performed item leaves its address and value on an idle bus; `poll_cnt` is unchanged or counts this item's samples, and
the error counter has not fallen (R87, R88). -/
theorem performItem_dev (it : Item) (s : State) :
    ∃ pollCnt errcnt, (pollCnt = s.dev.pollCnt ∨ pollCnt ≤ s.cfg.pollLimit) ∧ s.dev.errcnt.toNat ≤ errcnt.toNat
      ∧ (performItem it s).dev =
        { s.dev with
          bus := { addr := it.addr, dout := it.value, drive := false, oe := false, we := false, ce := false }
          pollCnt := pollCnt, errcnt := errcnt } := by
  unfold performItem
  split
  · have hw := writeCycle_eq it.addr it.value (setChipEnable true s) rfl
    simp only [drvPolledWrite]
    obtain ⟨n, errcnt, hn, herr, hdev⟩ := pollLoop_dev it.value s.cfg.pollLimit
      (setPollCnt 0 (writeCycle it.addr it.value (setChipEnable true s))) (by rw [hw]; rfl)
    rw [hw] at herr hdev ⊢
    refine ⟨n, errcnt, .inr hn, herr, hdev.trans ?_⟩
    simp [setChipEnable, setPollCnt]
  · exact ⟨s.dev.pollCnt, s.dev.errcnt, .inl rfl, le_rfl, by rw [drvFastWrite_eq]⟩

/-- What the driver keeps of its own registers between two states. -/
structure DriverKeeps (s t : State) : Prop where
  bus : BusIdle s → BusIdle t
  poll : s.dev.pollCnt ≤ s.cfg.pollLimit → t.dev.pollCnt ≤ t.cfg.pollLimit
  errcnt : s.dev.errcnt.toNat ≤ t.dev.errcnt.toNat

theorem DriverKeeps.trans {s t u : State} (h : DriverKeeps s t) (k : DriverKeeps t u) : DriverKeeps s u :=
  ⟨k.bus ∘ h.bus, k.poll ∘ h.poll, h.errcnt.trans k.errcnt⟩

theorem performItem_keeps (it : Item) (s : State) : DriverKeeps s (performItem it s) := by
  obtain ⟨n, errcnt, hn, herr, hdev⟩ := performItem_dev it s
  constructor
  · simp [BusIdle, hdev]
  · rw [(performItem_frame it s).cutFrame.cfg, hdev]
    exact fun hs => hn.elim (fun h => h ▸ hs) id
  · rwa [hdev]

theorem drainFrom_keeps (i : Nat) (items : List Item) (s : State) : DriverKeeps s (drainFrom i items s) := by
  induction items generalizing i s with
  | nil => exact ⟨id, id, le_rfl⟩
  | cons it rest ih =>
    have hidx : DriverKeeps s (setExecIdx i s) := ⟨id, id, le_rfl⟩
    exact (hidx.trans (performItem_keeps it _)).trans (ih _ _)

/-- The read loop leaves an idle bus idle (R83). -/
theorem readLoop_busIdle (addr : Addr) (i left : Nat) {s : State} (h : BusIdle s) : BusIdle (readLoop addr i left s) := by
  induction left generalizing i s with
  | zero => exact h
  | succ left ih =>
    obtain ⟨-, -, hwe, -⟩ := h
    exact ih (i + 1) (by rw [drvRead_eq]; exact ⟨rfl, rfl, hwe, rfl⟩)

end Sys2Proof.Machine
end

section
/-! The device invariant (R17, R18, R20, R27, R28): it holds at reset, and each operation of the device keeps it. -/
namespace Sys2Proof.Machine

/-! ### Operations on the state -/

/-- The invariant is about the device and the configuration only. -/
theorem DeviceInv.congr {s t : State} (h : DeviceInv s) (hcfg : t.cfg = s.cfg) (hdev : t.dev = s.dev) : DeviceInv t := by
  obtain ⟨hopbuf, hbus, hpoll, hheader, hdata, hcomplete⟩ := h
  cases s
  cases t
  cases hcfg
  cases hdev
  exact ⟨hopbuf, hbus, hpoll, hheader, hdata, hcomplete⟩

/-- In IDLE the receiver registers are free. -/
theorem ReceiverConsistent.of_idle {s : State} (h : s.dev.fsm = .idle) : ReceiverConsistent s := by
  constructor <;> simp [h]

/-- A device just reset meets the invariant, whatever the configuration (R161). -/
theorem DeviceInv.of_reset {s : State} (hdev : s.dev = Device.reset) : DeviceInv s := by
  cases s
  cases hdev
  exact ⟨Nat.zero_le _, ⟨rfl, rfl, rfl, rfl⟩, Nat.zero_le _, .of_idle rfl⟩

theorem DeviceInv.send {s : State} (h : DeviceInv s) (bs : List Byte) : DeviceInv (send bs s) := h.congr rfl rfl

theorem DeviceInv.toIdle {s : State} (h : DeviceInv s) : DeviceInv (toIdle s) :=
  ⟨h.opbuf, h.bus, h.poll, .of_idle rfl⟩

/-- A response ends the command, and keeps the invariant (R96). -/
theorem DeviceInv.respond {s : State} (h : DeviceInv s) (accepted : Bool) (payload : List Byte) :
    DeviceInv (respond accepted payload s) :=
  (h.send _).toIdle

theorem DeviceInv.clearOpbuf {s : State} (h : DeviceInv s) : DeviceInv (clearOpbuf s) := by
  obtain ⟨-, hbus, hpoll, hheader, hdata, hcomplete⟩ := h
  exact ⟨Nat.zero_le _, hbus, hpoll, hheader, hdata, hcomplete⟩

theorem DeviceInv.setErrcnt {s : State} (h : DeviceInv s) (v : U32) : DeviceInv (setErrcnt v s) := by
  obtain ⟨hopbuf, hbus, hpoll, hheader, hdata, hcomplete⟩ := h
  exact ⟨hopbuf, hbus, hpoll, hheader, hdata, hcomplete⟩

/-- Staging what fits keeps the invariant (R20). -/
theorem DeviceInv.stage {s : State} (h : DeviceInv s) {items : List Item}
    (hfit : s.dev.opbuf.length + items.length ≤ s.cfg.opbufCap.toNat) : DeviceInv (stage items s) := by
  obtain ⟨-, hbus, hpoll, hheader, hdata, hcomplete⟩ := h
  exact ⟨by simpa [OpbufBounded] using hfit, hbus, hpoll, hheader, hdata, hcomplete⟩

/-- All-or-nothing staging keeps the invariant where items that are not refused fit (R101, R102). -/
theorem DeviceInv.stageOrReject {s : State} (h : DeviceInv s) {refusal : Option NakCause} {items : List Item}
    (hfit : refusal = none → s.dev.opbuf.length + items.length ≤ s.cfg.opbufCap.toNat) :
    DeviceInv (stageOrReject refusal items s) := by
  cases refusal with
  | some cause => exact h.respond false []
  | none => exact (h.stage (hfit rfl)).respond true []

/-- The drain keeps the invariant: the driver leaves the bus idle and its budget kept, and touches nothing else. -/
theorem DeviceInv.drainFrom {s : State} (h : DeviceInv s) (i : Nat) (items : List Item) :
    DeviceInv (drainFrom i items s) := by
  obtain ⟨hopbuf, hbus, hpoll, hheader, hdata, hcomplete⟩ := h
  have hkeeps := drainFrom_keeps i items s
  have hframe := drainFrom_frame i items s
  refine ⟨?_, hkeeps.bus hbus, hkeeps.poll hpoll, ?_⟩ <;> rw [hframe]
  · exact hopbuf
  · exact ⟨hheader, hdata, hcomplete⟩

/-- The read loop keeps the invariant: it leaves the bus idle, and touches nothing else of the device. -/
theorem DeviceInv.readLoop {s : State} (h : DeviceInv s) (addr : Addr) (i left : Nat) :
    DeviceInv (readLoop addr i left s) := by
  obtain ⟨hopbuf, hbus, hpoll, hheader, hdata, hcomplete⟩ := h
  have hidle := readLoop_busIdle addr i left hbus
  obtain ⟨bytes, -, hframe⟩ := readLoop_frame addr i left s
  refine ⟨?_, hidle, ?_, ?_⟩ <;> rw [hframe]
  · exact hopbuf
  · exact hpoll
  · exact ⟨hheader, hdata, hcomplete⟩

/-! ### Commands -/

theorem length_writeItemsFrom (addr : Addr) (i : Nat) (data : List Byte) :
    (writeItemsFrom addr i data).length = data.length := by
  induction data generalizing i with
  | nil => rfl
  | cons b data ih => simp [writeItemsFrom, ih]

/-- One item per data byte (R101). -/
@[simp] theorem length_writeItems (addr : Addr) (data : List Byte) : (writeItems addr data).length = data.length :=
  length_writeItemsFrom addr 0 data

/-- One item per step of the sequence (R102). -/
@[simp] theorem length_sdpItems (seq : List (Addr × Byte)) : (sdpItems seq).length = seq.length := by simp [sdpItems]

/-- OPBUF_WRITEN is accepted exactly within both capacities (R101). -/
theorem writenRefusal_eq_none {s : State} {len : U24} :
    writenRefusal s len = none ↔
      len.toNat ≤ s.cfg.serbufCap.toNat ∧ s.dev.opbuf.length + len.toNat ≤ s.cfg.opbufCap.toNat := by
  unfold writenRefusal
  split_ifs <;> simp <;> omega

/-- An SDP sequence is accepted exactly if it fits (R102, R103). -/
theorem sdpRefusal_eq_none {s : State} {seq : List (Addr × Byte)} :
    sdpRefusal s seq = none ↔ s.dev.opbuf.length + seq.length ≤ s.cfg.opbufCap.toNat := by
  unfold sdpRefusal
  split_ifs <;> simp <;> omega

theorem sdpItems_fit {s : State} {seq : List (Addr × Byte)} (h : sdpRefusal s seq = none) :
    s.dev.opbuf.length + (sdpItems seq).length ≤ s.cfg.opbufCap.toNat := by
  rw [length_sdpItems]
  exact sdpRefusal_eq_none.1 h

theorem writeItems_fit {s : State} {len : U24} (addr : Addr) (data : List Byte) (h : writenRefusal s len = none) :
    s.dev.opbuf.length + (writeItems addr (data.take len.toNat)).length ≤ s.cfg.opbufCap.toNat := by
  obtain ⟨-, hfit⟩ := writenRefusal_eq_none.1 h
  simp only [length_writeItems, List.length_take]
  omega

/-- Every command keeps the invariant. -/
theorem DeviceInv.exec {s t : State} (hs : DeviceInv s) {i : Instr} (h : exec i s = .next t) : DeviceInv t := by
  cases i <;> cases h
  case queryName | queryOpbufSize | querySerbufSize | errorcntQuery => exact hs.respond _ _
  case opbufInit => exact hs.clearOpbuf.respond _ _
  case opbufWriten len addr data => exact hs.stageOrReject (writeItems_fit addr data)
  case opbufSetSdp | opbufResetSdp => exact hs.stageOrReject sdpItems_fit
  case opbufExec => exact (hs.drainFrom _ _).clearOpbuf.respond _ _
  case readN addr len => exact ((hs.send _).readLoop addr 0 len.toNat).toIdle
  case errorcntReset => exact (hs.setErrcnt 0).respond _ _

/-! ### The receiver -/

theorem ReceiverConsistent.of_rxHdr {s : State} (h : s.dev.fsm = .rxHdr) (hlen : s.dev.rxHdr.length < 6)
    (hop : s.dev.rxOp = s.cfg.opcodes.opbufWriten ∨ s.dev.rxOp = s.cfg.opcodes.readN) : ReceiverConsistent s :=
  ⟨fun _ => ⟨hlen, hop⟩, by simp [h], by simp [h]⟩

theorem ReceiverConsistent.of_rxData {s : State} (h : s.dev.fsm = .rxData)
    (hop : s.dev.rxOp = s.cfg.opcodes.opbufWriten) (hgot : s.dev.rxGot.toNat < s.dev.rxLen.toNat)
    (hkept : s.dev.rxData.length = min s.dev.rxGot.toNat s.cfg.serbufCap.toNat) : ReceiverConsistent s :=
  ⟨by simp [h], fun _ => ⟨hop, hgot, hkept⟩, by simp [h]⟩

theorem ReceiverConsistent.of_busy {s : State} (h : s.dev.fsm = .busy)
    (hkept : s.dev.rxOp = s.cfg.opcodes.opbufWriten →
      s.dev.rxData.length = min s.dev.rxLen.toNat s.cfg.serbufCap.toNat) : ReceiverConsistent s :=
  ⟨by simp [h], by simp [h], fun _ => hkept⟩

/-- An opcode byte begins a header, or is a complete request that is no OPBUF_WRITEN (R93). -/
theorem receiveOpcode_consistent (b : Byte) (s : State) : ReceiverConsistent (receiveOpcode b s) := by
  unfold receiveOpcode
  split
  case isTrue hop => exact .of_rxHdr rfl (by simp) hop
  case isFalse hop => exact .of_busy rfl fun hwriten => absurd (.inl hwriten) hop

/-- A complete header of OPBUF_WRITEN opens its data, of which nothing has come yet, or ends a frame without data; one of
READ_N ends its frame (R94). -/
theorem acceptHeader_consistent (b1 b2 b3 b4 b5 b6 : Byte) (s : State) :
    ReceiverConsistent (acceptHeader b1 b2 b3 b4 b5 b6 s) := by
  unfold acceptHeader
  split
  case isFalse hop => exact .of_busy rfl fun hwriten => absurd hwriten hop
  case isTrue hop =>
    by_cases hlen : unle24 b1 b2 b3 = 0
    · exact .of_busy (if_pos hlen) fun _ => by simp [hlen]
    · have hpos : 0 < (unle24 b1 b2 b3).toNat := by bv_omega
      exact .of_rxData (if_neg hlen) hop hpos (by simp)

/-- A header byte leaves the header incomplete, or completes it (R94). -/
theorem receiveHeader_consistent {s : State} (b : Byte) (hs : ReceiverConsistent s) (hfsm : s.dev.fsm = .rxHdr) :
    ReceiverConsistent (receiveHeader b s) := by
  obtain ⟨hlen, hop⟩ := hs.header hfsm
  unfold receiveHeader
  split
  · exact acceptHeader_consistent _ _ _ _ _ _ s
  case h_2 hincomplete =>
    refine .of_rxHdr hfsm ?_ hop
    have hle : (s.dev.rxHdr ++ [b]).length ≤ 6 := by
      rw [List.length_append, List.length_singleton]
      omega
    refine lt_of_le_of_ne hle fun hsix => ?_
    match hhdr : s.dev.rxHdr ++ [b], hsix with
    | [b1, b2, b3, b4, b5, b6], _ => exact hincomplete b1 b2 b3 b4 b5 b6 hhdr

/-- A data byte is counted, and kept up to `serbuf_cap`; the last one completes the frame (R95). -/
theorem receiveData_consistent {s : State} (b : Byte) (hs : ReceiverConsistent s) (hfsm : s.dev.fsm = .rxData) :
    ReceiverConsistent (receiveData b s) := by
  obtain ⟨hop, hgot, hkept⟩ := hs.data hfsm
  have hnext : (s.dev.rxGot + 1).toNat = s.dev.rxGot.toNat + 1 := by bv_omega
  have hkept' : (receiveData b s).dev.rxData.length = min (s.dev.rxGot + 1).toNat s.cfg.serbufCap.toNat := by
    simp only [receiveData]
    split
    · rw [List.length_append, List.length_singleton]
      omega
    · omega
  by_cases hlast : s.dev.rxGot + 1 = s.dev.rxLen
  · exact .of_busy (if_pos hlast) fun _ => by rw [hkept', hlast]; rfl
  · have hmore : (s.dev.rxGot + 1).toNat < s.dev.rxLen.toNat := by bv_omega
    exact .of_rxData (if_neg hlast) hop hmore hkept'

theorem receive_consistent {s : State} (b : Byte) (hs : ReceiverConsistent s) : ReceiverConsistent (receive b s) := by
  unfold receive
  split
  case h_1 => exact receiveOpcode_consistent b s
  case h_2 hfsm => exact receiveHeader_consistent b hs hfsm
  case h_3 hfsm => exact receiveData_consistent b hs hfsm
  case h_4 => exact hs

/-- Taking a byte keeps the invariant: only the receiver registers change (R93 to R95). -/
theorem DeviceInv.receive {s : State} (h : DeviceInv s) (b : Byte) : DeviceInv (receive b s) := by
  refine ⟨?_, ?_, ?_, receive_consistent b h.receiver⟩ <;> rw [receive_frame]
  · exact h.opbuf
  · exact h.bus
  · exact h.poll

theorem DeviceInv.takeByte {s : State} (h : DeviceInv s) : DeviceInv (takeByte s) := by
  unfold Machine.takeByte
  split
  · exact h
  case h_2 b rest _ =>
    have hs : DeviceInv { s with link := { s.link with h2d := rest } } := h.congr rfl rfl
    exact hs.receive b

/-- Every move of the device keeps the invariant. -/
theorem DeviceInv.deviceStep {s t : State} (hs : DeviceInv s) (h : deviceStep s = .next t) : DeviceInv t := by
  obtain ⟨-, rfl⟩ | ⟨-, i, -, hexec⟩ | ⟨-, -, rfl⟩ := deviceStep_cases h
  · exact hs.takeByte
  · exact hs.exec hexec
  · exact hs.respond false []

/-- Settles O37: a step leaves the device as it is, is a move of the device, or resets it, and each keeps the invariant. -/
theorem deviceInvariantKept : Obligations.DeviceInvariantKept := by
  intro s t hs h
  obtain ⟨hcfg, hdev⟩ | ⟨env, hmove⟩ | ⟨rest, -, -, -, hdev⟩ := step_device_cases h
  · exact hs.congr hcfg hdev
  · have hs' : DeviceInv { s with env := env } := hs.congr rfl rfl
    exact hs'.deviceStep hmove
  · exact .of_reset hdev

/-- Settles O36: the reset state's device is a device just reset. -/
theorem deviceInvariantAtReset : Obligations.DeviceInvariantAtReset := fun _ => .of_reset rfl

end Sys2Proof.Machine
end

section
/-! The error counter (R23): what each command and each move of the device does to it. -/
namespace Sys2Proof.Machine

@[simp] theorem stageOrReject_errcnt (refusal : Option NakCause) (items : List Item) (s : State) :
    (stageOrReject refusal items s).dev.errcnt = s.dev.errcnt := by
  cases refusal <;> rfl

@[simp] theorem readLoop_errcnt (addr : Addr) (i left : Nat) (s : State) :
    (readLoop addr i left s).dev.errcnt = s.dev.errcnt := by
  obtain ⟨bytes, -, hframe⟩ := readLoop_frame addr i left s
  rw [hframe]

@[simp] theorem takeByte_errcnt (s : State) : (takeByte s).dev.errcnt = s.dev.errcnt := by
  unfold takeByte
  split
  · rfl
  · rw [receive_frame]

/-- A command leaves the error counter, or is OPBUF_EXEC, whose poll failures only raise it (R104), or ERRORCNT_RESET, which
clears it (R113). -/
theorem exec_errcnt {s t : State} {i : Instr} (h : exec i s = .next t) :
    t.dev.errcnt = s.dev.errcnt
    ∨ (i = .opbufExec ∧ s.dev.errcnt.toNat ≤ t.dev.errcnt.toNat)
    ∨ (i = .errorcntReset ∧ t.dev.errcnt = 0) := by
  cases i <;> cases h
  case opbufExec => exact .inr (.inl ⟨rfl, (drainFrom_keeps 0 s.dev.opbuf s).errcnt⟩)
  case errorcntReset => exact .inr (.inr ⟨rfl, rfl⟩)
  case opbufWriten | opbufSetSdp | opbufResetSdp => exact .inl (stageOrReject_errcnt _ _ s)
  case readN addr len => exact .inl (readLoop_errcnt addr 0 len.toNat _)
  all_goals exact .inl rfl

/-- Settles O42: a step that touches the device is its own move, where only those two commands in BUSY reach the counter, or a
device reset, which clears it. -/
theorem errorCounterIsMonotonic : Obligations.ErrorCounterIsMonotonic := by
  intro s t h
  obtain ⟨-, hdev⟩ | ⟨env, hmove⟩ | ⟨rest, hpending, hinputs, -, hdev⟩ := step_device_cases h
  · exact .inl (by rw [hdev])
  · obtain ⟨-, rfl⟩ | ⟨hbusy, i, hi, hexec⟩ | ⟨-, -, rfl⟩ := deviceStep_cases hmove
    · exact .inl (takeByte_errcnt _)
    · obtain hkept | ⟨rfl, hle⟩ | ⟨rfl, hzero⟩ := exec_errcnt hexec
      · exact .inl hkept
      · exact .inr (.inl ⟨hbusy, hi, hle⟩)
      · exact .inr (.inr (.inl ⟨hbusy, hi, hzero⟩))
    · exact .inl rfl
  · exact .inr (.inr (.inr ⟨⟨rest, hpending, hinputs⟩, by rw [hdev]; rfl⟩))

end Sys2Proof.Machine
end

section
/-! The link (R30, R166): what `n` of its steps carry to the device. -/
namespace Sys2Proof.Machine

/-- Outside BUSY, and in BUSY under `Buffered`, a byte that arrives waits at the device (R30, R166). -/
theorem arrive_eq_enqueue {s : State} (h : s.dev.fsm ≠ .busy ∨ s.cfg.rxWhileBusy = .buffered) (b : Byte) :
    arrive b s = enqueue b s := by
  unfold arrive
  split
  case h_1 hbusy =>
    have hbuffered := h.resolve_left fun hne => hne hbusy
    simp only [hbuffered]
  all_goals rfl

/-- In BUSY under `Dropped` a byte that arrives is lost (R166). -/
theorem arrive_eq_self {s : State} (hbusy : s.dev.fsm = .busy) (hdropped : s.cfg.rxWhileBusy = .dropped) (b : Byte) :
    arrive b s = s := by
  simp only [arrive, hbusy, hdropped]

/-- One step of the link hands the first byte on its way to the device's side. -/
theorem linkStep_cons {s : State} {b : Byte} {rest : List Byte} (h : s.link.wire = b :: rest) :
    linkStep s = arrive b { s with link := { s.link with wire := rest } } := by
  simp only [linkStep, h]

/-- With no byte on its way the link's step changes nothing. -/
theorem linkStep_nil {s : State} (h : s.link.wire = []) : linkStep s = s := by
  simp only [linkStep, h]

/-- Where the device's side takes bytes, a step of the link moves the first byte on its way, if there is one. -/
theorem linkStep_carries {s : State} (h : s.dev.fsm ≠ .busy ∨ s.cfg.rxWhileBusy = .buffered) :
    linkStep s = { s with
      link := { s.link with wire := s.link.wire.drop 1, h2d := s.link.h2d ++ s.link.wire.take 1 } } := by
  cases hwire : s.link.wire with
  | nil => rw [linkStep_nil hwire, List.drop_nil, List.take_nil, List.append_nil, ← hwire]
  | cons b rest =>
    rw [linkStep_cons hwire, arrive_eq_enqueue]
    · rfl
    · exact h

/-- Where bytes are dropped, a step of the link loses the first byte on its way, if there is one. -/
theorem linkStep_drops {s : State} (hbusy : s.dev.fsm = .busy) (hdropped : s.cfg.rxWhileBusy = .dropped) :
    linkStep s = { s with link := { s.link with wire := s.link.wire.drop 1 } } := by
  cases hwire : s.link.wire with
  | nil => rw [linkStep_nil hwire, List.drop_nil, ← hwire]
  | cons b rest =>
    rw [linkStep_cons hwire, arrive_eq_self]
    · rfl
    · exact hbusy
    · exact hdropped

/-- Where the device's side takes bytes, `n` steps of the link move the next `n` bytes, in order. -/
theorem linkStep_iterate_carries (n : Nat) {s : State} (h : s.dev.fsm ≠ .busy ∨ s.cfg.rxWhileBusy = .buffered) :
    linkStep^[n] s = { s with
      link := { s.link with wire := s.link.wire.drop n, h2d := s.link.h2d ++ s.link.wire.take n } } := by
  induction n generalizing s with
  | zero => simp
  | succ n ih =>
    rw [Function.iterate_succ_apply, linkStep_carries h, ih]
    · rw [List.append_assoc, List.drop_drop, ← List.take_add, Nat.add_comm 1 n]
    · exact h

/-- Where bytes are dropped, `n` steps of the link lose the next `n` bytes. -/
theorem linkStep_iterate_drops (n : Nat) {s : State} (hbusy : s.dev.fsm = .busy)
    (hdropped : s.cfg.rxWhileBusy = .dropped) :
    linkStep^[n] s = { s with link := { s.link with wire := s.link.wire.drop n } } := by
  induction n generalizing s with
  | zero => simp
  | succ n ih =>
    rw [Function.iterate_succ_apply, linkStep_drops hbusy hdropped, ih]
    · rw [List.drop_drop, Nat.add_comm 1 n]
    · exact hbusy
    · exact hdropped

/-- Settles O12, by induction on the number of steps, from what one step of the link does. -/
theorem linkCarriesBytesInOrder : Obligations.LinkCarriesBytesInOrder :=
  fun _ n => ⟨linkStep_iterate_carries n, linkStep_iterate_drops n, fun _ _ => linkStep_cons⟩

end Sys2Proof.Machine
end

section
/-! The reset state (R32, R33) and the device reset (R161, R162). -/
namespace Sys2Proof.Machine

/-- Settles O38: at reset no workflow runs, and the name is 16 zero bytes. -/
theorem hostInvariantAtReset : Obligations.HostInvariantAtReset := by
  intro c
  constructor <;> simp [State.resetWith, HostSide.reset]

/-- Settles O16: the reset state's fields are those of `Device.reset` and `HostSide.reset`; a pending device reset is
`deviceReset` after the command in progress is cut, which outside BUSY is nothing and in every state leaves the host. -/
theorem resetLeavesTheDeviceReady : Obligations.ResetLeavesTheDeviceReady := by
  intro c s
  refine ⟨rfl, rfl, rfl, rfl, rfl, ⟨rfl, rfl, rfl, rfl⟩, rfl, rfl, rfl, rfl, fun rest hinputs => ?_⟩
  have hcut := cutCommand_cutFrame { s with env := { s.env with inputs := rest } }
  rw [outsideStep_deviceReset hinputs]
  exact ⟨fun hfsm => congrArg deviceReset (cutCommand_idle hfsm), rfl, rfl, hcut.host, hcut.inputs⟩

end Sys2Proof.Machine
end

section
/-! READ_N and the staged items (R52): the driver's read and the sending of its byte read nothing of the opbuf and keep it, so
the read loop commutes with putting other items in it. -/
namespace Sys2Proof.Machine

/-- `opbuf <- items`: the same state with these items staged. -/
def setOpbuf (items : List Item) (s : State) : State :=
  { s with dev := { s.dev with opbuf := items } }

/-- A read gives the same byte and the same changes whatever is staged (R83). -/
theorem drvRead_setOpbuf (a : Addr) (items : List Item) (s : State) :
    drvRead a (setOpbuf items s) = ((drvRead a s).1, setOpbuf items (drvRead a s).2) := rfl

theorem send_setOpbuf (bs : List Byte) (items : List Item) (s : State) :
    send bs (setOpbuf items s) = setOpbuf items (send bs s) := rfl

/-- The read loop sends the same bytes in the same bus cycles whatever is staged (R52, R105). -/
theorem readLoop_setOpbuf (addr : Addr) (i left : Nat) (items : List Item) (s : State) :
    readLoop addr i left (setOpbuf items s) = setOpbuf items (readLoop addr i left s) := by
  induction left generalizing i s with
  | zero => rfl
  | succ left ih =>
    unfold readLoop
    rw [drvRead_setOpbuf, send_setOpbuf, ih]

/-- Settles O31: READ_N is the status byte, the read loop and the return to IDLE, and each commutes with staging other items. -/
theorem readNIgnoresStagedItems : Obligations.ReadNIgnoresStagedItems := by
  intro s t addr len items h
  cases h
  have hloop := readLoop_setOpbuf addr 0 len.toNat items (send [statusByte s.cfg true] s)
  exact congrArg (fun u => Host.Outcome.next (toIdle u)) hloop

end Sys2Proof.Machine
end

section
/-! The canonical form of the reference chip's cells (R41, log 5): a conversation on the bus keeps it, and so does a write cut
off by a device reset; no other move reaches the chip. -/
namespace Sys2Proof.Machine

/-! ### The chip agent -/

/-- The cells of a chip agent: those of the reference chip, and none for the external chip. -/
def Chip.cells : Chip → Memory
  | .agent _ => []
  | .reference rc => rc.mem

theorem chipMemory_eq_cells (s : State) : chipMemory s = s.chip.cells := rfl

/-- If the cells of the first chip are in canonical form, so are those of the second. -/
def CellsKept (before later : Chip) : Prop :=
  before.cells.wf → later.cells.wf

theorem CellsKept.of_eq {before later : Chip} (h : later = before) : CellsKept before later := h ▸ id

theorem CellsKept.trans {first mid last : Chip} (h : CellsKept first mid) (k : CellsKept mid last) :
    CellsKept first last := k ∘ h

/-- A read leaves the cells alone. -/
theorem chipRead_cells (log : List BusCycle) (a : Addr) (chip : Chip) : (chipRead log a chip).2.cells = chip.cells := by
  cases chip with
  | agent answers => cases answers <;> rfl
  | reference rc => exact refRead_mem log rc a

theorem chipRead_cellsKept (log : List BusCycle) (a : Addr) (chip : Chip) : CellsKept chip (chipRead log a chip).2 := by
  rw [CellsKept, chipRead_cells]
  exact id

theorem chipWrite_cellsKept (c : Config) (a : Addr) (v : Byte) (chip : Chip) : CellsKept chip (chipWrite c a v chip) := by
  cases chip with
  | agent answers => exact id
  | reference rc => exact refWrite_wf

theorem chipCutWrite_cellsKept (a : Addr) (left : Byte) (chip : Chip) : CellsKept chip (chipCutWrite a left chip) := by
  cases chip with
  | agent answers => exact id
  | reference rc => exact Memory.write_wf a.isLt

/-- A conversation keeps the canonical form cycle by cycle (R44). -/
theorem Conversation.cellsKept {c : Config} {cycles log : List BusCycle} {chip last : Chip}
    (h : Conversation c cycles log chip last) : CellsKept chip last := by
  induction cycles generalizing log chip with
  | nil => exact .of_eq h
  | cons cy rest ih =>
    cases hkind : cy.kind with
    | read =>
      simp only [Conversation, hkind] at h
      exact (chipRead_cellsKept log cy.addr chip).trans (ih h.2)
    | write =>
      simp only [Conversation, hkind] at h
      exact (chipWrite_cellsKept c cy.addr cy.data chip).trans (ih h)
    | cutWrite => simp only [Conversation, hkind] at h

theorem Talks.cellsKept {s t : State} (h : Talks s t) : CellsKept s.chip t.chip := by
  obtain ⟨-, _, -, hconversation⟩ := h
  exact hconversation.cellsKept

/-! ### The device's own moves are conversations -/

theorem draw_talks (s : State) : Talks s (draw s).2 := .quiet (draw_cfg s) (draw_busLog s) (draw_chip s)

theorem pollSome_talks (v : Byte) (left : Nat) (s : State) : Talks s (pollSome v left s) := by
  induction left generalizing s with
  | zero => exact .quiet rfl rfl rfl
  | succ left ih =>
    unfold pollSome
    split
    · exact pollSample_talks s
    · exact (pollSample_talks s).trans (ih _)

/-- Staging makes no bus cycle (R43). -/
theorem stageOrReject_talks (refusal : Option NakCause) (items : List Item) (s : State) :
    Talks s (stageOrReject refusal items s) := by
  cases refusal <;> exact .quiet rfl rfl rfl

/-- What a command does to the chip is its bus cycles: those of the drain, those of the read loop, and none for the others. -/
theorem exec_talks {s t : State} {i : Instr} (h : exec i s = .next t) : Talks s t := by
  cases i <;> cases h
  case opbufExec => exact (drainFrom_talks 0 s.dev.opbuf s).trans (.quiet rfl rfl rfl)
  case readN addr len =>
    have hstatus : Talks s (send [statusByte s.cfg true] s) := .quiet rfl rfl rfl
    exact (hstatus.trans (readLoop_talks addr 0 len.toNat _)).trans (.quiet rfl rfl rfl)
  case opbufWriten | opbufSetSdp | opbufResetSdp => exact stageOrReject_talks _ _ s
  all_goals exact .quiet rfl rfl rfl

/-- Taking a byte makes no bus cycle. -/
theorem takeByte_talks (s : State) : Talks s (takeByte s) := by
  unfold takeByte
  split
  · exact .quiet rfl rfl rfl
  · rw [receive_frame]
    exact .quiet rfl rfl rfl

theorem deviceStep_talks {s t : State} (h : deviceStep s = .next t) : Talks s t := by
  obtain ⟨-, rfl⟩ | ⟨-, i, -, hexec⟩ | ⟨-, -, rfl⟩ := deviceStep_cases h
  · exact takeByte_talks s
  · exact exec_talks hexec
  · exact .quiet rfl rfl rfl

/-! ### A command cut by a device reset (R162) -/

/-- What the item in progress leaves in its cell is a write to an address of the chip. -/
theorem leaveCell_cellsKept (it : Item) (s : State) : CellsKept s.chip (leaveCell it s).chip :=
  (draw_talks s).cellsKept.trans (chipCutWrite_cellsKept _ _ _)

theorem cutInWrite_cellsKept (it : Item) (s : State) : CellsKept s.chip (cutInWrite it s).chip := by
  refine CellsKept.trans ?_ (leaveCell_cellsKept it _)
  exact id

theorem cutInPolling_cellsKept (it : Item) (n : Nat) (s : State) : CellsKept s.chip (cutInPolling it n s).chip := by
  have hwrite := writeCycle_talks it.addr it.value (setChipEnable true s) rfl
  have hpoll := pollSome_talks it.value n (setPollCnt 0 (writeCycle it.addr it.value (setChipEnable true s)))
  exact hwrite.cellsKept.trans (hpoll.cellsKept.trans (leaveCell_cellsKept it _))

theorem cutItem_cellsKept (it : Item) (s : State) : CellsKept s.chip (cutItem it s).chip := by
  simp only [cutItem]
  split
  · exact cutInWrite_cellsKept it s
  · split
    · exact (draw_talks s).cellsKept.trans (cutInWrite_cellsKept it _)
    · exact (draw_talks s).cellsKept.trans (cutInPolling_cellsKept it _ _)

theorem cutExec_cellsKept (s : State) : CellsKept s.chip (cutExec s).chip := by
  have hdrain := fun k => (draw_talks s).trans (drainFrom_talks 0 (s.dev.opbuf.take k) (draw s).2)
  simp only [cutExec]
  split
  · exact (hdrain _).cellsKept
  · split
    · exact ((hdrain _).trans (draw_talks _)).cellsKept.trans (cutItem_cellsKept _ _)
    · exact ((hdrain _).trans (draw_talks _)).cellsKept

/-- A cut READ_N has made some of its bus cycles. -/
theorem cutRead_talks (addr : Addr) (len : U24) (s : State) : Talks s (cutRead addr len s) := by
  have hstatus : Talks s (send [statusByte s.cfg true] (draw s).2) := (draw_talks s).trans (.quiet rfl rfl rfl)
  have hread := fun n => hstatus.trans (readLoop_talks addr 0 n _)
  simp only [cutRead]
  split
  · exact draw_talks s
  · split
    · exact ((hread _).trans (draw_talks _)).trans (drvRead_talks _ _)
    · exact (hread _).trans (draw_talks _)

/-- A cut response makes no bus cycle. -/
theorem cutResponse_talks (i : Instr) (s : State) : Talks s (cutResponse i s) := by
  unfold cutResponse
  split
  · exact (draw_talks s).trans (.quiet rfl rfl rfl)
  all_goals exact .quiet rfl rfl rfl

theorem cutCommand_cellsKept (s : State) : CellsKept s.chip (cutCommand s).chip := by
  unfold cutCommand
  split
  · split
    · exact cutExec_cellsKept s
    · exact (cutRead_talks _ _ s).cellsKept
    · exact (cutResponse_talks _ s).cellsKept
    · exact id
  all_goals exact id

/-! ### The step -/

/-- An input that lands keeps the canonical form: it cuts the command in progress, or does not reach the chip. -/
theorem outsideStep_cellsKept (s : State) : CellsKept s.chip (outsideStep s).chip := by
  obtain ⟨rest, hreset⟩ | hkept := outsideStep_cases s
  · rw [outsideStep_deviceReset hreset]
    exact cutCommand_cellsKept { s with env := { s.env with inputs := rest } }
  · exact .of_eq hkept.chip

/-- Every step keeps the canonical form, whichever agent moves. -/
theorem step_cellsKept {s t : State} (h : step s = .next t) : CellsKept s.chip t.chip := by
  obtain ⟨env, -, rfl | ⟨a, -, ha⟩⟩ := step_next_cases h
  · exact id
  · cases a with
    | device => exact (deviceStep_talks ha).cellsKept
    | link =>
      obtain ⟨env', link, hlink⟩ := linkStep_frame { s with env := env }
      cases ha
      rw [hlink]
      exact id
    | host => exact .of_eq (hostStep_keepsDeviceSide ha).chip
    | timer =>
      cases ha
      exact .of_eq (timerStep_keepsDeviceSide { s with env := env }).chip
    | outside =>
      cases ha
      exact outsideStep_cellsKept { s with env := env }

/-- Settles O40: at reset the external chip stands on the bus, which has no cells in the state; and the bus cycles of a step, and
a cell left by a reset, keep the form. -/
theorem chipCellsStayCanonical : Obligations.ChipCellsStayCanonical := by
  refine ⟨fun _ => ⟨.nil, nofun⟩, fun s t hs h => ?_⟩
  rw [chipMemory_eq_cells] at hs ⊢
  exact step_cellsKept h hs

end Sys2Proof.Machine
end

section
/-! The request decoder and encoder (R61 to R80): the decoder's answer for each request format, with the header written as the
two `le24` fields the encoder writes; then the one lemma that says what reading a frame can give. -/
namespace Sys2Proof

/-- A header is incomplete, or is two 24-bit fields (R65, R66). -/
theorem header_cases (body : List Byte) :
    body.length < 6 ∨ ∃ (v w : U24) (tail : List Byte), body = le24 v ++ le24 w ++ tail := by
  match body with
  | b1 :: b2 :: b3 :: b4 :: b5 :: b6 :: tail =>
    exact .inr ⟨unle24 b1 b2 b3, unle24 b4 b5 b6, tail, by simp [le24_unle24]⟩
  | [] | [_] | [_, _] | [_, _, _] | [_, _, _, _] | [_, _, _, _, _] => exact .inl (by simp)

/-! ### The decoder's answer -/

theorem decodeFrame_unassigned {ops : OpcodeMap} {b : Byte} (body : List Byte) (h : opcodeOf ops b = none) :
    decodeFrame ops (b :: body) = .error (.unassigned b) := by simp [decodeFrame, h]

theorem decodeFrame_bare {ops : OpcodeMap} {b : Byte} {op : Opcode} (body : List Byte) (h : opcodeOf ops b = some op)
    (hf : formatOf op = .bare) : decodeFrame ops (b :: body) = .ok (buildInstr op 0 0 [], body) := by
  simp [decodeFrame, h, hf]

theorem decodeFrame_shortHeader {ops : OpcodeMap} {b : Byte} {op : Opcode} {body : List Byte} (h : opcodeOf ops b = some op)
    (hf : formatOf op ≠ .bare) (hlen : body.length < 6) : decodeFrame ops (b :: body) = .error (.truncated op) := by
  simp only [decodeFrame, h]
  split
  case h_1 hbare => exact absurd hbare hf
  case h_2 | h_3 =>
    simp only [List.length_cons] at hlen
    omega
  case h_4 | h_5 => rfl

theorem decodeFrame_writen {ops : OpcodeMap} {b : Byte} (h : opcodeOf ops b = some .opbufWriten) (len : U24) (addr : Addr)
    (tail : List Byte) :
    decodeFrame ops (b :: (le24 len ++ le24 addr ++ tail)) =
      if tail.length < len.toNat then .error (.truncated .opbufWriten)
      else .ok (.opbufWriten len addr (tail.take len.toNat), tail.drop len.toNat) := by
  simp [decodeFrame, h, formatOf, le24, unle24_extract, buildInstr]

theorem decodeFrame_readn {ops : OpcodeMap} {b : Byte} (h : opcodeOf ops b = some .readN) (addr : Addr) (len : U24)
    (tail : List Byte) : decodeFrame ops (b :: (le24 addr ++ le24 len ++ tail)) = .ok (.readN addr len, tail) := by
  simp [decodeFrame, h, formatOf, le24, unle24_extract, buildInstr]

/-- Settles O1: the opcode byte selects the request's opcode under an injective map; a 24-bit field reads back from its three
bytes; and the length field of a well-formed OPBUF_WRITEN cuts the bytes after the header exactly at the end of its data. -/
theorem decodeEncodeRoundTrip : Obligations.DecodeEncodeRoundTrip := by
  intro ops i rest hinj hwf
  have hop := opcodeOf_opcodeByte hinj i.opcode
  cases i with
  | opbufWriten len addr data =>
    have hlen : data.length = len.toNat := of_decide_eq_true hwf
    have hdec := decodeFrame_writen hop len addr (data ++ rest)
    simpa [encode, ← hlen] using hdec
  | readN addr len => exact decodeFrame_readn hop addr len rest
  | _ => exact decodeFrame_bare rest hop rfl

/-- A command without operands is well formed. -/
theorem buildInstr_wf {op : Opcode} (hf : formatOf op = .bare) : (buildInstr op 0 0 []).wf = true := by
  cases op with
  | opbufWriten | readN => cases hf
  | _ => rfl

/-- A command without operands is its opcode byte alone (R62). -/
theorem encode_buildInstr {ops : OpcodeMap} {op : Opcode} (hf : formatOf op = .bare) :
    encode ops (buildInstr op 0 0 []) = [opcodeByte ops op] := by
  cases op with
  | opbufWriten | readN => cases hf
  | _ => rfl

/-! ### What reading a frame can give -/

/-- The bytes after the opcode are fewer than the frame of R74 needs. -/
def FrameShort (op : Opcode) (body : List Byte) : Prop :=
  (op = .readN ∧ body.length < 6)
    ∨ (op = .opbufWriten
      ∧ (body.length < 6
        ∨ body.length < 6 + (unle24 (body.getD 0 0) (body.getD 1 0) (body.getD 2 0)).toNat))

/-- A command with operands is short of bytes where its header is. -/
theorem FrameShort.of_header {op : Opcode} {body : List Byte} (hf : formatOf op ≠ .bare) (hlen : body.length < 6) :
    FrameShort op body := by
  cases op with
  | opbufWriten => exact .inr ⟨rfl, .inl hlen⟩
  | readN => exact .inl ⟨rfl, hlen⟩
  | _ => exact absurd rfl hf

theorem frameShort_writen {len : U24} {addr : Addr} {tail : List Byte} :
    FrameShort .opbufWriten (le24 len ++ le24 addr ++ tail) ↔ tail.length < len.toNat := by
  simp [FrameShort, le24, unle24_extract]
  omega

theorem not_frameShort_readn {addr : Addr} {len : U24} {tail : List Byte} :
    ¬ FrameShort .readN (le24 addr ++ le24 len ++ tail) := by simp [FrameShort, le24]

theorem not_frameShort_bare {op : Opcode} {body : List Byte} (hf : formatOf op = .bare) : ¬ FrameShort op body := by
  rintro (⟨rfl, -⟩ | ⟨rfl, -⟩) <;> cases hf

/-- What the decoder can answer on an opcode byte and the bytes after it. -/
inductive FrameReading (ops : OpcodeMap) (b : Byte) (body : List Byte) : Except DecodeError (Instr × List Byte) → Prop
  | unassigned (hop : opcodeOf ops b = none) : FrameReading ops b body (.error (.unassigned b))
  | truncated {op : Opcode} (hop : opcodeOf ops b = some op) (hshort : FrameShort op body) :
      FrameReading ops b body (.error (.truncated op))
  | complete {op : Opcode} {i : Instr} {rest : List Byte} (hop : opcodeOf ops b = some op) (hlong : ¬ FrameShort op body)
      (hwf : i.wf = true) (hencode : encode ops i ++ rest = b :: body) : FrameReading ops b body (.ok (i, rest))

/-- The decoder's answer is one of these, by the format of the command and the length of the frame. -/
theorem decodeFrame_reading (ops : OpcodeMap) (b : Byte) (body : List Byte) :
    FrameReading ops b body (decodeFrame ops (b :: body)) := by
  cases hop : opcodeOf ops b with
  | none =>
    rw [decodeFrame_unassigned body hop]
    exact .unassigned hop
  | some op =>
    have hb : opcodeByte ops op = b := opcodeByte_of_opcodeOf hop
    by_cases hf : formatOf op = .bare
    · rw [decodeFrame_bare body hop hf]
      exact .complete hop (not_frameShort_bare hf) (buildInstr_wf hf) (by rw [encode_buildInstr hf, hb]; rfl)
    obtain hlen | ⟨v, w, tail, rfl⟩ := header_cases body
    · rw [decodeFrame_shortHeader hop hf hlen]
      exact .truncated hop (.of_header hf hlen)
    cases op with
    | opbufWriten =>
      rw [decodeFrame_writen hop]
      split
      · next hlt => exact .truncated hop (frameShort_writen.2 hlt)
      · next hle =>
        refine .complete hop (mt frameShort_writen.1 hle) ?_ ?_
        · simpa [Instr.wf] using hle
        · simp [encode, Instr.opcode, hb]
    | readN =>
      rw [decodeFrame_readn hop]
      exact .complete hop not_frameShort_readn rfl (by simp [encode, Instr.opcode, hb])
    | _ => exact absurd rfl hf

/-- Settles O2: a request read is a complete frame. -/
theorem encodeDecodeRoundTrip : Obligations.EncodeDecodeRoundTrip := by
  intro ops bs rest i h
  cases bs with
  | nil => cases h
  | cons b body =>
    have hread := decodeFrame_reading ops b body
    rw [h] at hread
    cases hread with
    | complete _ _ hwf hencode => exact ⟨hwf, hencode⟩

/-- Settles O3: of the three answers each carries the condition under which it is given, and the conditions exclude each other. -/
theorem decoderRejectsByName : Obligations.DecoderRejectsByName := by
  intro ops b body
  simp only [← opcodeOf_eq_none]
  change _ ∧ _ ∧ ∀ op, _ ↔ opcodeOf ops b = some op ∧ FrameShort op body
  have hread := decodeFrame_reading ops b body
  generalize decodeFrame ops (b :: body) = answer at hread ⊢
  cases hread with
  | unassigned hop => simp [hop, eq_comm]
  | @truncated selected hop hshort =>
    suffices ∀ op, selected = op → FrameShort op body by simpa [hop]
    rintro op rfl
    exact hshort
  | @complete selected _ _ hop hlong =>
    suffices ∀ op, selected = op → ¬ FrameShort op body by simpa [hop]
    rintro op rfl
    exact hlong

/-! ### The spec's own words and lines -/

/-- The default opcode bytes differ (R63). -/
theorem opcodeByte_default_injective : Function.Injective (opcodeByte OpcodeMap.default) :=
  Machine.nodup_map_allOpcodes.1 (by decide)

/-- Under the default opcodes a well-formed request is read back from its encoding, with no byte left over. -/
theorem decodeFrame_encode_default (i : Instr) (hwf : i.wf = true) :
    decodeFrame OpcodeMap.default (encode OpcodeMap.default i) = .ok (i, []) := by
  simpa using decodeEncodeRoundTrip OpcodeMap.default i [] opcodeByte_default_injective hwf

/-- Settles O4: each word is the encoding of its request, so the round trip reads it back. -/
theorem specWordsDecode : Obligations.SpecWordsDecode :=
  ⟨decodeFrame_encode_default .queryName rfl, decodeFrame_encode_default .opbufExec rfl,
    decodeFrame_encode_default .errorcntQuery rfl, decodeFrame_encode_default (.opbufWriten 2 0x001000 [0xDE, 0xAD]) rfl,
    decodeFrame_encode_default (.readN 0x001000 4) rfl⟩

/-- A line that says a request assembles to the request's encoding. -/
theorem assembleLine_of_request {text : List Char} {i : Instr} (ops : OpcodeMap)
    (h : Machine.readLine text = some (.request i)) : Machine.assembleLine ops text = some (encode ops i) := by
  simp [Machine.assembleLine, h]

/-- Settles O5: the two lines say these two requests, and their encodings are the spec's bytes. -/
theorem textLinesEncode : Obligations.TextLinesEncode := by
  have hwriten : Machine.readLine "OPBUF_WRITEN 0x001000, [0xDE, 0xAD]".toList
      = some (.request (.opbufWriten 2 0x001000 [0xDE, 0xAD])) := by decide
  have hreadn : Machine.readLine "READ_N 0x001000, 4".toList = some (.request (.readN 0x001000 4)) := by decide
  exact ⟨assembleLine_of_request _ hwriten, assembleLine_of_request _ hreadn⟩

end Sys2Proof
end

section
/-! The driver's operations as an observer of the bus sees them (R82 to R89): `DrvRead` and `DrvFastWrite` are one cycle each; the
polling loop's samples decide how it ends, and a polled write is its one write cycle followed by those samples. -/
namespace Sys2Proof.Machine

/-- Settles O26: the equations of the two operations say all of it, and neither touches `bus_we` after its cycle. -/
theorem singleCycleDriverOperations : Obligations.SingleCycleDriverOperations := by
  intro s a v hidle
  obtain ⟨-, -, hwe, -⟩ := hidle
  rw [drvRead_eq, drvFastWrite_eq]
  exact ⟨rfl, rfl, rfl, ⟨rfl, rfl, hwe, rfl⟩, rfl, rfl, rfl, ⟨rfl, rfl, rfl, rfl⟩, rfl⟩

/-- The increment with its saturated value written out (R9). -/
theorem satInc32_eq (n : U32) : satInc32 n = if n = 0xFFFFFFFF then 0xFFFFFFFF else n + 1 := by
  unfold satInc32
  split
  · assumption
  · rfl

/-- Polling for `v` with `left` samples in the budget took these samples, between the states `s` and `t` (R88). -/
structure PollingTook (v : Byte) (left : Nat) (samples : List Byte) (s t : State) : Prop where
  withinBudget : samples.length ≤ left
  unmatched : ∀ b ∈ samples.dropLast, bit7Match v b = false
  exhausted : samples.any (bit7Match v) = false → samples.length = left
  busLog : t.busLog = (samples.map (readCycleAt s.dev.bus.addr)).reverse ++ s.busLog
  pollCnt : t.dev.pollCnt = s.dev.pollCnt + samples.length
  errcnt : t.dev.errcnt = if samples.any (bit7Match v) then s.dev.errcnt else satInc32 s.dev.errcnt

/-- A sample with the written bit 7 ends the polling. -/
theorem PollingTook.matched {v b : Byte} {left : Nat} {s t : State} (hmatch : bit7Match v b = true)
    (hlog : t.busLog = readCycleAt s.dev.bus.addr b :: s.busLog) (hcnt : t.dev.pollCnt = s.dev.pollCnt + 1)
    (herr : t.dev.errcnt = s.dev.errcnt) : PollingTook v (left + 1) [b] s t where
  withinBudget := by simp
  unmatched := nofun
  exhausted := by simp [hmatch]
  busLog := hlog
  pollCnt := hcnt
  errcnt := by simpa [hmatch] using herr

/-- A sample without the written bit 7 goes before those taken after it. -/
theorem PollingTook.cons {v b : Byte} {left : Nat} {rest : List Byte} {s mid t : State} (hmiss : bit7Match v b = false)
    (haddr : mid.dev.bus.addr = s.dev.bus.addr) (hlog : mid.busLog = readCycleAt s.dev.bus.addr b :: s.busLog)
    (hcnt : mid.dev.pollCnt = s.dev.pollCnt + 1) (herr : mid.dev.errcnt = s.dev.errcnt)
    (h : PollingTook v left rest mid t) : PollingTook v (left + 1) (b :: rest) s t where
  withinBudget := Nat.succ_le_succ h.withinBudget
  unmatched := by
    cases rest with
    | nil => exact nofun
    | cons c tail => exact List.forall_mem_cons.2 ⟨hmiss, h.unmatched⟩
  exhausted hany := congrArg (· + 1) (h.exhausted (by simpa [hmiss] using hany))
  busLog := by simp [h.busLog, hlog, haddr]
  pollCnt := by
    rw [h.pollCnt, hcnt, List.length_cons]
    omega
  errcnt := by simpa [hmiss, herr] using h.errcnt

/-- With the chip enabled and the data bus released, the polling loop is a run of samples of the cell addressed. -/
theorem pollLoop_took (v : Byte) (left : Nat) (s : State) (hce : s.dev.bus.ce = true) (hdrive : s.dev.bus.drive = false) :
    ∃ samples, PollingTook v left samples s (pollLoop v left s) := by
  induction left generalizing s with
  | zero => exact ⟨[], le_rfl, nofun, fun _ => rfl, rfl, rfl, rfl⟩
  | succ left ih =>
    have hlog : (pollSample s).2.busLog = readCycleAt s.dev.bus.addr (pollSample s).1 :: s.busLog := by
      simp only [pollSample_eq, readCycleAt, hce, hdrive]
    unfold pollLoop
    split
    · next hdone => exact ⟨_, .matched hdone hlog rfl rfl⟩
    · next hmiss =>
      obtain ⟨rest, h⟩ := ih (pollSample s).2 hce hdrive
      exact ⟨_, .cons (mid := (pollSample s).2) (Bool.eq_false_of_not_eq_true hmiss) rfl hlog rfl rfl h⟩

/-- The samples of a loop that starts with a budget are those of a polled item (R89). -/
theorem PollingTook.samplesOf {v : Byte} {limit : Nat} {samples : List Byte} {s t : State} (a : Addr)
    (h : PollingTook v limit samples s t) (hlimit : 1 ≤ limit) :
    SamplesOf limit { addr := a, value := v, mode := .polled } samples := by
  refine ⟨?_, h.withinBudget, h.unmatched, h.exhausted⟩
  cases samples with
  | nil => exact (h.exhausted rfl).symm ▸ hlimit
  | cons b rest => exact Nat.succ_pos _

/-- A polled write is its one write cycle, then the samples of a polling loop that starts at that cycle's end (R88). -/
theorem drvPolledWrite_took (a : Addr) (v : Byte) (s : State) :
    ∃ samples, PollingTook v s.cfg.pollLimit samples
      (setPollCnt 0 (writeCycle a v (setChipEnable true s))) (drvPolledWrite a v s) := by
  have hw := writeCycle_eq a v (setChipEnable true s) rfl
  exact pollLoop_took v _ _ (by rw [hw]; rfl) (by rw [hw]; rfl)

/-- A polled write is a performed item. -/
theorem drvPolledWrite_eq_performItem (a : Addr) (v : Byte) (s : State) :
    drvPolledWrite a v s = performItem { addr := a, value := v, mode := .polled } s := rfl

/-- Settles O27: the samples are those the polling loop takes after the write cycle; that they are the chip's answers, the
idle bus and the frame hold of any performed item. -/
theorem polledWriteOutcomes : Obligations.PolledWriteOutcomes := by
  intro s a v hlimit
  obtain ⟨samples, h⟩ := drvPolledWrite_took a v s
  have hw := writeCycle_eq a v (setChipEnable true s) rfl
  have hlog : (drvPolledWrite a v s).busLog = (writeCycleAt a v :: samples.map (readCycleAt a)).reverse ++ s.busLog := by
    rw [h.busLog, hw]
    simp [setPollCnt, setChipEnable]
  have hcnt : (drvPolledWrite a v s).dev.pollCnt = samples.length := h.pollCnt.trans (Nat.zero_add _)
  have herr := h.errcnt
  rw [hw, satInc32_eq] at herr
  have hperform := drvPolledWrite_eq_performItem a v s
  obtain ⟨_, _, -, -, hdev⟩ := performItem_dev { addr := a, value := v, mode := .polled } s
  rw [← hperform] at hdev
  exact ⟨samples, h.samplesOf a hlimit, hlog, (hperform ▸ performItem_talks _ s).cycles hlog, hcnt, herr,
    by simp [BusIdle, hdev], by rw [hdev], hperform ▸ performItem_frame _ s⟩

end Sys2Proof.Machine
end

section
/-! The receiver (R93 to R96): what the device does with one byte in each state, and a whole frame taken byte by byte. -/
namespace Sys2Proof.Machine

/-! ### One byte -/

theorem receive_idle {s : State} (h : s.dev.fsm = .idle) (b : Byte) : receive b s = receiveOpcode b s := by
  simp only [receive, h]

theorem receive_rxHdr {s : State} (h : s.dev.fsm = .rxHdr) (b : Byte) : receive b s = receiveHeader b s := by
  simp only [receive, h]

theorem receive_rxData {s : State} (h : s.dev.fsm = .rxData) (b : Byte) : receive b s = receiveData b s := by
  simp only [receive, h]

/-- Settles O6: the receiver's opcode rule is R93's. -/
theorem idleTakesOpcode : Obligations.IdleTakesOpcode := fun _ b h => receive_idle h b

/-- Settles O8: the receiver's data rule is R95's. -/
theorem dataBytesAreCounted : Obligations.DataBytesAreCounted := fun _ b h => receive_rxData h b

/-- A byte that leaves the header short of six is appended to it (R94). -/
theorem receiveHeader_of_length_ne {s : State} {b : Byte} (h : (s.dev.rxHdr ++ [b]).length ≠ 6) :
    receiveHeader b s = { s with dev := { s.dev with rxHdr := s.dev.rxHdr ++ [b] } } := by
  unfold receiveHeader
  split
  · next hsix => simp [hsix] at h
  · rfl

/-- The sixth byte completes the header (R94). -/
theorem receiveHeader_sixth {s : State} {b1 b2 b3 b4 b5 b6 : Byte} (h : s.dev.rxHdr = [b1, b2, b3, b4, b5]) :
    receiveHeader b6 s = acceptHeader b1 b2 b3 b4 b5 b6 s := by
  simp only [receiveHeader, h, List.cons_append, List.nil_append]

/-- Settles O7: a header of six bytes is decoded by `acceptHeader`, and any other is only collected. -/
theorem headerBytesDecode : Obligations.HeaderBytesDecode := by
  intro s b hdr hfsm hhdr
  rw [receive_rxHdr hfsm]
  split
  · next hsix =>
    match hdr, hsix with
    | [b1, b2, b3, b4, b5, b6], _ => simp only [receiveHeader, ← hhdr, acceptHeader, List.getD_cons_zero, List.getD_cons_succ]
  · next hne =>
    rw [hhdr] at hne ⊢
    exact receiveHeader_of_length_ne hne

/-! ### The complete request -/

/-- In BUSY with a request that decodes to `i`, the device's step is `exec` of `i` (R96). -/
theorem deviceStep_of_request {s : State} {i : Instr} (hbusy : s.dev.fsm = .busy) (hi : request s = some i) :
    deviceStep s = exec i s := by
  simp only [deviceStep, hbusy, executeRequest, hi]

/-- In BUSY with an unassigned opcode, the device's step is the rejection (R106). -/
theorem deviceStep_of_unassigned {s : State} (hbusy : s.dev.fsm = .busy) (h : request s = none) :
    deviceStep s = .next (rejectUnassigned s) := by
  simp only [deviceStep, hbusy, executeRequest, h]

/-- Under an injective map the opcode byte in `rx_op` selects its command, with the operands received. -/
theorem request_of_rxOp {s : State} {op : Opcode} (hinj : Function.Injective (opcodeByte s.cfg.opcodes))
    (hop : s.dev.rxOp = opcodeByte s.cfg.opcodes op) :
    request s = some (buildInstr op s.dev.rxLen s.dev.rxAddr s.dev.rxData) := by
  simp only [request, requestOf, hop, opcodeOf_opcodeByte hinj, Option.map_some]

/-- An opcode byte that opens no header is a complete request (R93). -/
theorem receiveOpcode_complete {s : State} {b : Byte} (hw : b ≠ s.cfg.opcodes.opbufWriten) (hr : b ≠ s.cfg.opcodes.readN) :
    receiveOpcode b s = { s with dev := { s.dev with rxOp := b, fsm := .busy } } :=
  if_neg (not_or.2 ⟨hw, hr⟩)

/-- Settles O10: an unassigned byte opens no header, and in BUSY the request it makes selects no command. -/
theorem unassignedOpcodeIsRejected : Obligations.UnassignedOpcodeIsRejected := by
  intro s b hidle hunassigned
  have hnone : opcodeOf s.cfg.opcodes b = none := opcodeOf_eq_none.2 hunassigned
  rw [receive_idle hidle, receiveOpcode_complete (hunassigned .opbufWriten).symm (hunassigned .readN).symm]
  refine ⟨rfl, ?_⟩
  rw [deviceStep_of_unassigned rfl (by simp only [request, requestOf, hnone, Option.map_none])]
  rfl

/-! ### Several bytes -/

/-- `n` steps of the device take the next `n` waiting bytes and change the receiver registers only. -/
structure Takes (n : Nat) (s t : State) : Prop where
  run : deviceRun n s = some t
  frame : t = { s with
    dev := { s.dev with
      fsm := t.dev.fsm, rxOp := t.dev.rxOp, rxHdr := t.dev.rxHdr, rxLen := t.dev.rxLen, rxAddr := t.dev.rxAddr,
      rxData := t.dev.rxData, rxGot := t.dev.rxGot }
    link := { s.link with h2d := s.link.h2d.drop n } }

theorem deviceRun_succ {n : Nat} {s u : State} (h : deviceStep s = .next u) : deviceRun (n + 1) s = deviceRun n u := by
  simp only [deviceRun, h]

theorem deviceRun_add {m n : Nat} {s t : State} (h : deviceRun m s = some t) : deviceRun (m + n) s = deviceRun n t := by
  induction m generalizing s with
  | zero =>
    cases h
    rw [Nat.zero_add]
  | succ m ih =>
    obtain ⟨u, hu⟩ := deviceStep_next s
    rw [deviceRun_succ hu] at h
    rw [Nat.succ_add, deviceRun_succ hu]
    exact ih h

theorem Takes.cfg {n : Nat} {s t : State} (h : Takes n s t) : t.cfg = s.cfg := by rw [h.frame]

theorem Takes.h2d {n : Nat} {s t : State} (h : Takes n s t) : t.link.h2d = s.link.h2d.drop n := by rw [h.frame]

theorem Takes.trans {m n : Nat} {s t u : State} (h : Takes m s t) (k : Takes n t u) : Takes (m + n) s u where
  run := (deviceRun_add h.run).trans k.run
  frame := by
    have hu := k.frame
    rw [h.frame, List.drop_drop] at hu
    exact hu

/-- Outside BUSY a step of the device takes the next waiting byte. -/
theorem deviceStep_takeByte {s : State} (h : s.dev.fsm ≠ .busy) : deviceStep s = .next (takeByte s) := by
  unfold deviceStep
  split
  case h_1 hbusy => exact absurd hbusy h
  all_goals rfl

/-- What a byte does to the device depends on the configuration and the device only. -/
theorem receive_dev_setLink (b : Byte) (s : State) (link : Link) :
    (receive b { s with link := link }).dev = (receive b s).dev := by
  simp only [receive]
  split <;> simp only [receiveOpcode, receiveHeader, receiveData, acceptHeader] <;> repeat' split
  all_goals rfl

/-- Outside BUSY one step receives the next waiting byte. -/
theorem takes_byte {s : State} {b : Byte} {rest : List Byte} (hfsm : s.dev.fsm ≠ .busy) (hh2d : s.link.h2d = b :: rest) :
    ∃ t, Takes 1 s t ∧ t.link.h2d = rest ∧ t.dev = (receive b s).dev := by
  have hframe := receive_frame b { s with link := { s.link with h2d := rest } }
  refine ⟨_, ⟨?_, ?_⟩, by rw [hframe], receive_dev_setLink b s { s.link with h2d := rest }⟩
  · rw [deviceRun_succ (deviceStep_takeByte hfsm)]
    simp only [deviceRun, takeByte, hh2d]
  · rw [hh2d]
    exact hframe

/-- The header's bytes before the sixth are collected (R94). -/
theorem takes_headerBytes {s : State} {bs rest : List Byte} (hfsm : s.dev.fsm = .rxHdr)
    (hshort : (s.dev.rxHdr ++ bs).length < 6) (hh2d : s.link.h2d = bs ++ rest) :
    ∃ t, Takes bs.length s t ∧ t.link.h2d = rest ∧ t.dev = { s.dev with rxHdr := s.dev.rxHdr ++ bs } := by
  induction bs generalizing s with
  | nil => exact ⟨s, ⟨rfl, rfl⟩, hh2d, by rw [List.append_nil]⟩
  | cons b bs ih =>
    have hlen : (s.dev.rxHdr ++ [b]).length ≠ 6 := by
      simp only [List.length_append, List.length_cons, List.length_nil] at hshort ⊢
      omega
    obtain ⟨u, hbyte, hu, hdev⟩ := takes_byte (by simp [hfsm]) hh2d
    rw [receive_rxHdr hfsm, receiveHeader_of_length_ne hlen] at hdev
    rw [List.append_cons] at hshort ⊢
    obtain ⟨t, hrest, ht, htdev⟩ := ih (by rw [hdev, hfsm]) (by rw [hdev]; exact hshort) hu
    rw [List.length_cons, Nat.add_comm]
    exact ⟨t, hbyte.trans hrest, ht, by rw [htdev, hdev]⟩

/-- A whole header is taken and decoded (R94). -/
theorem takes_header {s : State} {b1 b2 b3 b4 b5 b6 : Byte} {rest : List Byte} (hfsm : s.dev.fsm = .rxHdr)
    (hempty : s.dev.rxHdr = []) (hh2d : s.link.h2d = b1 :: b2 :: b3 :: b4 :: b5 :: b6 :: rest) :
    ∃ t, Takes 6 s t ∧ t.link.h2d = rest ∧ t.dev = (acceptHeader b1 b2 b3 b4 b5 b6 s).dev := by
  obtain ⟨u, hfive, hu, hudev⟩ := takes_headerBytes (bs := [b1, b2, b3, b4, b5]) hfsm (by simp [hempty]) hh2d
  rw [hempty, List.nil_append] at hudev
  obtain ⟨t, hsix, ht, htdev⟩ := takes_byte (by simp [hudev, hfsm]) hu
  rw [receive_rxHdr (by rw [hudev, hfsm]), receiveHeader_sixth (by rw [hudev])] at htdev
  refine ⟨t, hfive.trans hsix, ht, htdev.trans ?_⟩
  simp only [acceptHeader, hudev, hfive.cfg]
  split <;> rfl

/-- The data bytes of an OPBUF_WRITEN are all taken, and kept whole where the frame does not pass `serbuf_cap` (R95). -/
theorem takes_data {s : State} {data rest : List Byte} (hfsm : s.dev.fsm = .rxData) (hne : data ≠ [])
    (hlen : s.dev.rxGot.toNat + data.length = s.dev.rxLen.toNat) (hh2d : s.link.h2d = data ++ rest) :
    ∃ t, Takes data.length s t ∧ t.link.h2d = rest ∧ t.dev.fsm = .busy ∧ t.dev.rxOp = s.dev.rxOp
      ∧ t.dev.rxLen = s.dev.rxLen ∧ t.dev.rxAddr = s.dev.rxAddr
      ∧ (s.dev.rxLen.toNat ≤ s.cfg.serbufCap.toNat → t.dev.rxData = s.dev.rxData ++ data) := by
  induction data generalizing s with
  | nil => exact absurd rfl hne
  | cons b data ih =>
    obtain ⟨u, hbyte, hu, hdev⟩ := takes_byte (by simp [hfsm]) hh2d
    rw [receive_rxData hfsm] at hdev
    simp only [List.length_cons] at hlen ⊢
    have hgot : (s.dev.rxGot + 1).toNat = s.dev.rxGot.toNat + 1 := by bv_omega
    have hlast : s.dev.rxGot + 1 = s.dev.rxLen ↔ data = [] := by
      rw [← BitVec.toNat_inj, hgot, ← hlen, ← List.length_eq_zero_iff]
      omega
    have hkept : s.dev.rxLen.toNat ≤ s.cfg.serbufCap.toNat → u.dev.rxData = s.dev.rxData ++ [b] := fun hcap => by
      rw [hdev]
      exact if_pos (by omega)
    by_cases hnil : data = []
    · subst hnil
      refine ⟨u, hbyte, hu, ?_, by rw [hdev]; rfl, by rw [hdev]; rfl, by rw [hdev]; rfl, hkept⟩
      rw [hdev]
      exact if_pos (hlast.2 rfl)
    · have hugot : u.dev.rxGot = s.dev.rxGot + 1 := by rw [hdev]; rfl
      have hulen : u.dev.rxLen = s.dev.rxLen := by rw [hdev]; rfl
      obtain ⟨t, hrest, ht, hbusy, hop, htlen, haddr, hdata⟩ := ih (s := u) (by rw [hdev]; exact if_neg (mt hlast.1 hnil))
        hnil (by rw [hugot, hulen, hgot]; omega) hu
      refine ⟨t, Nat.add_comm 1 _ ▸ hbyte.trans hrest, ht, hbusy, ?_, htlen.trans hulen, ?_, fun hcap => ?_⟩
      · rw [hop, hdev]; rfl
      · rw [haddr, hdev]; rfl
      · rw [hdata (by rw [hulen, hbyte.cfg]; exact hcap), hkept hcap, List.append_assoc, List.singleton_append]

/-! ### A whole frame -/

/-- The opcode byte of a command with operands opens its header (R93). -/
theorem takes_opcode {s : State} {b : Byte} {rest : List Byte} (hidle : s.dev.fsm = .idle)
    (hop : b = s.cfg.opcodes.opbufWriten ∨ b = s.cfg.opcodes.readN) (hh2d : s.link.h2d = b :: rest) :
    ∃ t, Takes 1 s t ∧ t.link.h2d = rest ∧ t.dev = { s.dev with rxOp := b, rxHdr := [], fsm := .rxHdr } := by
  obtain ⟨t, hbyte, ht, hdev⟩ := takes_byte (by simp [hidle]) hh2d
  rw [receive_idle hidle, receiveOpcode, if_pos hop] at hdev
  exact ⟨t, hbyte, ht, hdev⟩

/-- From `s` the device takes the whole frame of `i`, the bytes after it still waiting, and its next step executes `i`. -/
def ReceivesFrame (i : Instr) (rest : List Byte) (s : State) : Prop :=
  ∃ t, Takes (frameLength i) s t ∧ t.link.h2d = rest ∧ t.dev.fsm = .busy ∧ deviceStep t = exec i t

/-- A command without operands is complete with its opcode byte (R93). -/
theorem receivesFrame_bare {s : State} {i : Instr} {rest : List Byte} (hinj : Function.Injective (opcodeByte s.cfg.opcodes))
    (hidle : s.dev.fsm = .idle) (hbare : formatOf i.opcode = .bare) (hlen : frameLength i = 1)
    (hbuild : ∀ len addr data, buildInstr i.opcode len addr data = i)
    (hh2d : s.link.h2d = opcodeByte s.cfg.opcodes i.opcode :: rest) : ReceivesFrame i rest s := by
  have hne : ∀ op, formatOf op ≠ .bare → opcodeByte s.cfg.opcodes i.opcode ≠ opcodeByte s.cfg.opcodes op :=
    fun op hop heq => hop (hinj heq ▸ hbare)
  obtain ⟨t, hbyte, ht, hdev⟩ := takes_byte (by simp [hidle]) hh2d
  rw [receive_idle hidle, receiveOpcode_complete (hne .opbufWriten nofun) (hne .readN nofun)] at hdev
  have hbusy : t.dev.fsm = .busy := by rw [hdev]
  have hreq := request_of_rxOp (s := t) (op := i.opcode) (by rwa [hbyte.cfg]) (by rw [hdev, hbyte.cfg])
  rw [hbuild] at hreq
  exact ⟨t, hlen ▸ hbyte, ht, hbusy, deviceStep_of_request hbusy hreq⟩

/-- A READ_N is complete with its header (R94). -/
theorem receivesFrame_readN {s : State} {addr : Addr} {len : U24} {rest : List Byte}
    (hinj : Function.Injective (opcodeByte s.cfg.opcodes)) (hidle : s.dev.fsm = .idle)
    (hh2d : s.link.h2d = encode s.cfg.opcodes (.readN addr len) ++ rest) : ReceivesFrame (.readN addr len) rest s := by
  obtain ⟨u, hbyte, hu, hudev⟩ := takes_opcode hidle (.inr rfl) hh2d
  obtain ⟨t, hheader, ht, hdev⟩ := takes_header (by rw [hudev]) (by rw [hudev]) hu
  have hother : u.dev.rxOp ≠ u.cfg.opcodes.opbufWriten := by
    rw [hudev, hbyte.cfg]
    exact fun heq => nomatch hinj (a₁ := .readN) (a₂ := .opbufWriten) heq
  rw [acceptHeader, if_neg hother, hudev, unle24_extract, unle24_extract] at hdev
  have hbusy : t.dev.fsm = .busy := by rw [hdev]
  have hcfg := (hbyte.trans hheader).cfg
  have hreq := request_of_rxOp (s := t) (op := .readN) (by rwa [hcfg]) (by rw [hdev, hcfg]; rfl)
  simp only [hdev, buildInstr] at hreq
  exact ⟨t, hbyte.trans hheader, ht, hbusy, deviceStep_of_request hbusy hreq⟩

/-- An OPBUF_WRITEN over `serbuf_cap` is refused whatever data was kept, so what is kept matters only within it (R101). -/
theorem execOpbufWriten_congr {s : State} {len : U24} (addr : Addr) {data kept : List Byte}
    (h : len.toNat ≤ s.cfg.serbufCap.toNat → kept = data) :
    execOpbufWriten len addr kept s = execOpbufWriten len addr data s := by
  by_cases hcap : len.toNat ≤ s.cfg.serbufCap.toNat
  · rw [h hcap]
  · have hrefusal : writenRefusal s len = some .frame := if_pos (by omega)
    simp only [execOpbufWriten, hrefusal, stageOrReject]

/-- An OPBUF_WRITEN is complete with its last data byte, or, where it has none, with its header (R94, R95). -/
theorem receivesFrame_opbufWriten {s : State} {len : U24} {addr : Addr} {data rest : List Byte}
    (hinj : Function.Injective (opcodeByte s.cfg.opcodes)) (hidle : s.dev.fsm = .idle) (hlen : data.length = len.toNat)
    (hh2d : s.link.h2d = encode s.cfg.opcodes (.opbufWriten len addr data) ++ rest) :
    ReceivesFrame (.opbufWriten len addr data) rest s := by
  obtain ⟨u, hbyte, hu, hudev⟩ := takes_opcode hidle (.inl rfl) hh2d
  obtain ⟨v, hheader, hv, hvdev⟩ := takes_header (by rw [hudev]) (by rw [hudev]) hu
  rw [acceptHeader, if_pos (by rw [hudev, hbyte.cfg]), hudev, unle24_extract, unle24_extract] at hvdev
  have hstart := hbyte.trans hheader
  suffices ∃ t, Takes data.length v t ∧ t.link.h2d = rest ∧ t.dev.fsm = .busy ∧ t.dev.rxOp = v.dev.rxOp
      ∧ t.dev.rxLen = v.dev.rxLen ∧ t.dev.rxAddr = v.dev.rxAddr
      ∧ (v.dev.rxLen.toNat ≤ v.cfg.serbufCap.toNat → t.dev.rxData = data) by
    obtain ⟨t, hdata, ht, hbusy, hop, htlen, haddr, hkept⟩ := this
    have hframe := hstart.trans hdata
    have hreq := request_of_rxOp (s := t) (op := .opbufWriten) (by rwa [hframe.cfg])
      (by rw [hop, hvdev, hframe.cfg]; rfl)
    rw [htlen, haddr, hvdev] at hreq
    refine ⟨t, ?_, ht, hbusy, (deviceStep_of_request hbusy hreq).trans (execOpbufWriten_congr addr fun hcap => hkept ?_)⟩
    · rw [frameLength, ← hlen]
      exact hframe
    · rw [hvdev, hstart.cfg, ← hframe.cfg]
      exact hcap
  by_cases hnil : data = []
  · subst hnil
    have hzero : len = 0 := by
      rw [List.length_nil] at hlen
      bv_omega
    refine ⟨v, ⟨rfl, rfl⟩, hv, ?_, rfl, rfl, rfl, fun _ => by rw [hvdev]⟩
    rw [hvdev]
    exact if_pos hzero
  · have hpos : len ≠ 0 := by
      rintro rfl
      exact hnil (List.eq_nil_of_length_eq_zero hlen)
    obtain ⟨t, hdata, ht, hbusy, hop, htlen, haddr, hkept⟩ := takes_data (s := v) (by rw [hvdev]; exact if_neg hpos) hnil
      (by rw [hvdev]; simpa using hlen) hv
    exact ⟨t, hdata, ht, hbusy, hop, htlen, haddr, fun hcap => (hkept hcap).trans (by rw [hvdev]; rfl)⟩

/-- Settles O9: a frame of each format is taken byte by byte, and the registers it leaves decode to its request. -/
theorem deviceReceivesAndExecutes : Obligations.DeviceReceivesAndExecutes := by
  intro s i rest hinj hidle hwf hh2d
  have hframe : ReceivesFrame i rest s := by
    cases i with
    | opbufWriten len addr data => exact receivesFrame_opbufWriten hinj hidle (of_decide_eq_true hwf) hh2d
    | readN addr len => exact receivesFrame_readN hinj hidle hh2d
    | _ => exact receivesFrame_bare hinj hidle rfl rfl (fun _ _ _ => rfl) hh2d
  obtain ⟨t, htakes, ht, hbusy, hexec⟩ := hframe
  refine ⟨t, htakes.run, hbusy, hexec, ?_⟩
  rw [← hbusy, ← ht, htakes.h2d]
  exact htakes.frame

end Sys2Proof.Machine
end

section
/-! The choice of the agent (log 6), and the step in which the device runs its request (R96). -/
namespace Sys2Proof.Machine

theorem Drawn.refl (env : Env) : Drawn env env := ⟨rfl, List.suffix_refl _, le_rfl⟩

/-- A draw takes the next prescribed choice, or counts one free one. -/
theorem draw_drawn (s : State) : Drawn s.env (draw s).2.env := by
  unfold draw
  split
  · next c rest hscript => exact ⟨rfl, hscript ▸ List.suffix_cons c rest, le_rfl⟩
  · exact ⟨rfl, List.suffix_refl _, Nat.le_succ _⟩

/-- The choice of the agent takes at most one choice. -/
theorem chooseAgent_drawn {s t : State} {a : Option Agent} (h : chooseAgent s = (a, t)) : Drawn s.env t.env := by
  unfold chooseAgent at h
  split at h <;> cases h
  · exact .refl s.env
  · exact .refl s.env
  · exact draw_drawn s

/-- Under a legal configuration a step is the move of the agent chosen. -/
theorem step_of_chooseAgent {s t : State} {a : Agent} (hlegal : configViolation s.cfg = none)
    (h : chooseAgent s = (some a, t)) : step s = agentStep a t := by
  simp only [step, machineStep, hlegal, h]

/-- Settles O13: the device's move in BUSY is `exec` of its request, and the choice before it changes the environment only. -/
theorem stepRunsTheRequest : Obligations.StepRunsTheRequest := by
  intro s t i hlegal hchoose hbusy hreq
  have hdrawn := chooseAgent_drawn hchoose
  have hstep := step_of_chooseAgent hlegal hchoose
  obtain ⟨env, rfl, -⟩ := chooseAgent_env hchoose
  exact ⟨hstep.trans (deviceStep_of_request hbusy hreq), rfl, hdrawn⟩

end Sys2Proof.Machine
end

section
/-! The queries, the error-counter commands and OPBUF_INIT (R97 to R100, R112, R113): each is one response, on the state with at
most one register written. -/
namespace Sys2Proof.Machine

/-- An accepted request is answered with `P_ACK` and the payload. -/
theorem respond_true (payload : List Byte) (s : State) : respond true payload s = answered (s.cfg.ack :: payload) s := rfl

/-- `board_name` is 16 bytes (R25). -/
theorem length_boardName (c : Config) : (boardName c).length = 16 := by simp [boardName]

/-- Byte `n` of `board_name` is that of the configured name, or 0 past its end (R69, R97). -/
theorem getElem?_boardName {c : Config} {n : Nat} (hn : n < 16) : (boardName c)[n]? = some (c.boardName.getD n 0) := by
  simp [boardName, hn]

/-- Settles O18: the payload is `board_name`, known byte by byte. -/
theorem queryNameAnswersPaddedName : Obligations.QueryNameAnswersPaddedName :=
  ⟨rfl, fun s => ⟨congrArg Host.Outcome.next (respond_true _ s), length_boardName _, fun _ => getElem?_boardName⟩⟩

/-- Settles O19: `le16` writes the low byte first. -/
theorem sizeQueriesAnswerCapacities : Obligations.SizeQueriesAnswerCapacities :=
  ⟨rfl, rfl, fun s => ⟨congrArg Host.Outcome.next (respond_true (le16 s.cfg.opbufCap) s),
    congrArg Host.Outcome.next (respond_true (le16 s.cfg.serbufCap) s)⟩⟩

/-- Settles O20: `le32` writes the low byte first. -/
theorem errorcntQueryReportsCounter : Obligations.ErrorcntQueryReportsCounter :=
  ⟨rfl, fun s => congrArg Host.Outcome.next (respond_true (le32 s.dev.errcnt) s)⟩

theorem le32_zero : le32 0 = [0, 0, 0, 0] := by decide

/-- Settles O21: the query after it reports the counter as written. -/
theorem errorcntResetClearsCounter : Obligations.ErrorcntResetClearsCounter :=
  ⟨rfl, fun s => ⟨_, rfl, respond_true [] (setErrcnt 0 s),
    congrArg (fun payload => Host.Outcome.next (respond true payload (respond true [] (setErrcnt 0 s)))) le32_zero⟩⟩

/-- Settles O22: it is the response after the opbuf is emptied. -/
theorem opbufInitDiscardsItems : Obligations.OpbufInitDiscardsItems :=
  ⟨rfl, fun s => congrArg Host.Outcome.next (respond_true [] (clearOpbuf s))⟩

end Sys2Proof.Machine
end

section
/-! Staging (R101 to R103): all or nothing, and the items of an OPBUF_WRITEN by their index. -/
namespace Sys2Proof.Machine

/-- Staging is refused with a NAK and no other change, or appends every item (R101, R102). -/
theorem stageOrReject_eq (refusal : Option NakCause) (items : List Item) (s : State) :
    stageOrReject refusal items s =
      if refusal = none then answered [s.cfg.ack] (stage items s) else answered [s.cfg.nak] s := by
  cases refusal <;> rfl

theorem writeItemsFrom_eq_mapIdx (addr : Addr) (i : Nat) (data : List Byte) :
    writeItemsFrom addr i data = data.mapIdx fun n b => { addr := elemAddr addr (i + n), value := b, mode := .polled } := by
  induction data generalizing i with
  | nil => rfl
  | cons b data ih => simp only [writeItemsFrom, ih, List.mapIdx_cons, Nat.add_zero, Nat.add_assoc, Nat.add_comm 1]

/-- Data byte `n` is staged for the element at `addr + n` (R101). -/
theorem writeItems_eq_mapIdx (addr : Addr) (data : List Byte) :
    writeItems addr data = data.mapIdx fun n b => { addr := elemAddr addr n, value := b, mode := .polled } := by
  rw [writeItems, writeItemsFrom_eq_mapIdx]
  simp only [Nat.zero_add]

theorem writeItems_eq_map_range (addr : Addr) (data : List Byte) :
    writeItems addr data = (List.range data.length).map fun n =>
      { addr := addr + BitVec.ofNat 24 n, value := data.getD n 0, mode := .polled } := by
  rw [writeItems_eq_mapIdx]
  refine List.ext_getElem (by simp) fun n hn _ => ?_
  have hlt : n < data.length := by simpa using hn
  simp [elemAddr, hlt]

/-- Settles O23: the refusal is R101's, and the items of an accepted frame are one per data byte. -/
theorem writenStagesAllOrNothing : Obligations.WritenStagesAllOrNothing := by
  refine fun s len addr data => ⟨rfl, fun hdata => congrArg Host.Outcome.next (a₂ := ite _ _ _) ?_⟩
  have hrefused : writenRefusal s len = none ↔
      ¬ (s.cfg.serbufCap.toNat < len.toNat ∨ s.cfg.opbufCap.toNat < s.dev.opbuf.length + len.toNat) := by
    rw [writenRefusal_eq_none, not_or, not_lt, not_lt]
  rw [stageOrReject_eq, ite_cond_congr (propext hrefused), ite_not]
  split
  · rfl
  · next hfit =>
    have hlen : data.length = len.toNat := hdata.resolve_right fun h => hfit (.inl h)
    rw [← hlen, List.take_length, writeItems_eq_map_range]
    rfl

/-- Staging an SDP sequence: refused where it would pass `opbuf_cap`, else one fast item per pair, in order (R102, R103). -/
theorem stage_sdp_eq (s : State) (seq : List (Addr × Byte)) :
    stageOrReject (sdpRefusal s seq) (sdpItems seq) s =
      if s.cfg.opbufCap.toNat < s.dev.opbuf.length + seq.length then answered [s.cfg.nak] s
      else answered [s.cfg.ack] (stage (sdpItems seq) s) := by
  have hrefused : sdpRefusal s seq = none ↔ ¬ s.cfg.opbufCap.toNat < s.dev.opbuf.length + seq.length := by
    rw [sdpRefusal_eq_none, not_lt]
  rw [stageOrReject_eq, ite_cond_congr (propext hrefused), ite_not]

/-- Settles O24, for the lock sequence. -/
theorem setSdpStagesAllOrNothing : Obligations.SetSdpStagesAllOrNothing :=
  ⟨rfl, fun s => congrArg Host.Outcome.next (stage_sdp_eq s s.cfg.sdpSet)⟩

/-- Settles O25, for the unlock sequence. -/
theorem resetSdpStagesAllOrNothing : Obligations.ResetSdpStagesAllOrNothing :=
  ⟨rfl, fun s => congrArg Host.Outcome.next (stage_sdp_eq s s.cfg.sdpClear)⟩

end Sys2Proof.Machine
end

section
/-! OPBUF_EXEC (R104): the bus cycles and the error counter of one performed item, and of the drain. -/
namespace Sys2Proof.Machine

/-! ### The saturating counter (R9, R23) -/

/-- A counter that has met `n` failures, saturating. -/
def satAdd32 (c : U32) (n : Nat) : Nat :=
  min (c.toNat + n) (2 ^ 32 - 1)

theorem satAdd32_zero (c : U32) : satAdd32 c 0 = c.toNat := by
  unfold satAdd32
  bv_omega

theorem satInc32_toNat (c : U32) : (satInc32 c).toNat = satAdd32 c 1 := by
  unfold satInc32 satAdd32
  split <;> bv_omega

/-- Failures add up, saturating. -/
theorem satAdd32_trans {c d e : U32} {m n : Nat} (h : d.toNat = satAdd32 c m) (k : e.toNat = satAdd32 d n) :
    e.toNat = satAdd32 c (m + n) := by
  unfold satAdd32 at *
  omega

/-! ### One item -/

/-- One item has been performed with these samples, between the states `s` and `t` (R19, R87, R88). -/
structure ItemTook (it : Item) (samples : List Byte) (s t : State) : Prop where
  withinBudget : samples.length ≤ s.cfg.pollLimit
  samplesOf : 1 ≤ s.cfg.pollLimit → SamplesOf s.cfg.pollLimit it samples
  busLog : t.busLog = (itemCycles it samples).reverse ++ s.busLog
  errcnt : t.dev.errcnt.toNat = satAdd32 s.dev.errcnt (itemFailed it samples).toNat

/-- A performed item is its write cycle, and, if it is polled, the samples of its polling loop. -/
theorem performItem_took (it : Item) (s : State) : ∃ samples, ItemTook it samples s (performItem it s) := by
  obtain ⟨a, v, mode⟩ := it
  cases mode with
  | fast =>
    have hperform : performItem { addr := a, value := v, mode := .fast } s = drvFastWrite a v s := rfl
    rw [hperform, drvFastWrite_eq]
    exact ⟨[], Nat.zero_le _, fun _ => rfl, rfl, by simp only [itemFailed, Bool.toNat_false, satAdd32_zero]⟩
  | polled =>
    obtain ⟨samples, h⟩ := drvPolledWrite_took a v s
    have hw := writeCycle_eq a v (setChipEnable true s) rfl
    refine ⟨samples, h.withinBudget, h.samplesOf a, ?_, ?_⟩
    · rw [← drvPolledWrite_eq_performItem, h.busLog, hw]
      simp [itemCycles, setPollCnt, setChipEnable]
    · have herr : (drvPolledWrite a v s).dev.errcnt =
          if samples.any (bit7Match v) then s.dev.errcnt else satInc32 s.dev.errcnt := by
        rw [h.errcnt, hw]
        rfl
      rw [← drvPolledWrite_eq_performItem, herr]
      cases hany : samples.any (bit7Match v)
      · simpa [itemFailed, hany] using satInc32_toNat s.dev.errcnt
      · simpa [itemFailed, hany] using (satAdd32_zero s.dev.errcnt).symm

/-! ### The drain -/

/-- The items have been performed in order, with these samples each, between the states `s` and `t` (R104). -/
structure DrainTook (items : List Item) (samples : List (List Byte)) (s t : State) : Prop where
  length : samples.length = items.length
  withinBudget : ∀ ss ∈ samples, ss.length ≤ s.cfg.pollLimit
  samplesOf : 1 ≤ s.cfg.pollLimit →
    ∀ (n : Nat) it ss, items[n]? = some it → samples[n]? = some ss → SamplesOf s.cfg.pollLimit it ss
  busLog : t.busLog = (List.zipWith itemCycles items samples).flatten.reverse ++ s.busLog
  errcnt : t.dev.errcnt.toNat
    = satAdd32 s.dev.errcnt ((items.zip samples).countP fun p => itemFailed p.1 p.2)

/-- No item, no cycle. -/
theorem DrainTook.nil (s : State) : DrainTook [] [] s s :=
  ⟨rfl, nofun, nofun, rfl, (satAdd32_zero _).symm⟩

/-- An item performed before a drain. -/
theorem DrainTook.cons {it : Item} {items : List Item} {ss : List Byte} {samples : List (List Byte)} {s u t : State}
    (hcfg : u.cfg = s.cfg) (h : ItemTook it ss s u) (k : DrainTook items samples u t) :
    DrainTook (it :: items) (ss :: samples) s t where
  length := congrArg (· + 1) k.length
  withinBudget := List.forall_mem_cons.2 ⟨h.withinBudget, hcfg ▸ k.withinBudget⟩
  samplesOf hlimit n it' ss' hit hss := by
    cases n with
    | zero =>
      cases hit
      cases hss
      exact h.samplesOf hlimit
    | succ n => exact hcfg ▸ k.samplesOf (hcfg ▸ hlimit) n it' ss' hit hss
  busLog := by simp [k.busLog, h.busLog]
  errcnt := by
    have hsum := satAdd32_trans h.errcnt k.errcnt
    rw [List.zip_cons_cons, List.countP_cons, Nat.add_comm]
    cases hfailed : itemFailed it ss <;> simpa [hfailed] using hsum

/-- The drain performs every item. -/
theorem drainFrom_took (i : Nat) (items : List Item) (s : State) :
    ∃ samples, DrainTook items samples s (drainFrom i items s) := by
  induction items generalizing i s with
  | nil => exact ⟨[], .nil s⟩
  | cons it items ih =>
    obtain ⟨ss, h⟩ := performItem_took it (setExecIdx i s)
    obtain ⟨samples, k⟩ := ih (i + 1) (performItem it (setExecIdx i s))
    have hitem : ItemTook it ss s (performItem it (setExecIdx i s)) := ⟨h.withinBudget, h.samplesOf, h.busLog, h.errcnt⟩
    have hcfg : (performItem it (setExecIdx i s)).cfg = s.cfg := (performItem_talks it (setExecIdx i s)).1
    exact ⟨ss :: samples, .cons hcfg hitem k⟩

/-- OPBUF_EXEC is its drain, an empty opbuf and an ACK (R104). -/
theorem exec_opbufExec (s : State) :
    exec .opbufExec s = .next (answered [s.cfg.ack] (clearOpbuf (drainFrom 0 s.dev.opbuf s))) := by
  have hcfg : (drainFrom 0 s.dev.opbuf s).cfg = s.cfg := (drainFrom_talks 0 s.dev.opbuf s).1
  rw [← hcfg]
  rfl

/-- Settles O28: the drain's cycles and counter are those of its items, its cycles the chip's own, and its frame the
driver's. -/
theorem opbufExecPerformsItemsInOrder : Obligations.OpbufExecPerformsItemsInOrder := by
  refine ⟨rfl, fun s hlimit => ?_⟩
  obtain ⟨samples, h⟩ := drainFrom_took 0 s.dev.opbuf s
  have hframe := drainFrom_frame 0 s.dev.opbuf s
  refine ⟨_, samples, exec_opbufExec s, h.length, h.samplesOf hlimit, h.busLog,
    (drainFrom_talks 0 s.dev.opbuf s).cycles h.busLog, h.errcnt, ?_⟩
  conv_lhs => rw [hframe]
  rfl

/-- The drain's cycles are at most one write and the polling budget per item. -/
theorem DrainTook.length_cycles {items : List Item} {samples : List (List Byte)} {s t : State}
    (h : DrainTook items samples s t) :
    (List.zipWith itemCycles items samples).flatten.length ≤ items.length * (s.cfg.pollLimit + 1) := by
  have hcycles : ∀ n ∈ (List.zipWith itemCycles items samples).map List.length, n ≤ s.cfg.pollLimit + 1 := by
    intro n hn
    obtain ⟨cycles, hmem, rfl⟩ := List.mem_map.1 hn
    rw [← List.map_uncurry_zip_eq_zipWith] at hmem
    obtain ⟨⟨it, ss⟩, hp, rfl⟩ := List.mem_map.1 hmem
    have hss := h.withinBudget ss (List.of_mem_zip hp).2
    simpa [itemCycles, Function.uncurry] using hss
  have hsum := List.sum_le_card_nsmul _ _ hcycles
  rw [List.length_flatten]
  simpa [h.length] using hsum

end Sys2Proof.Machine
end

section
/-! READ_N (R105): the read loop's bus cycles and the bytes it sends, and both on the idle reference chip. -/
namespace Sys2Proof.Machine

/-- The legal reads of successive elements that answered these bytes, the first of them element `i` (R48, R83). -/
def readCycles (addr : Addr) (i : Nat) (bytes : List Byte) : List BusCycle :=
  bytes.mapIdx fun n b => readCycleAt (elemAddr addr (i + n)) b

theorem readCycles_cons (addr : Addr) (i : Nat) (b : Byte) (bytes : List Byte) :
    readCycles addr i (b :: bytes) = readCycleAt (elemAddr addr i) b :: readCycles addr (i + 1) bytes := by
  simp only [readCycles, List.mapIdx_cons, Nat.add_zero, Nat.add_assoc, Nat.add_comm 1]

theorem length_readCycles (addr : Addr) (i : Nat) (bytes : List Byte) : (readCycles addr i bytes).length = bytes.length := by
  simp [readCycles]

/-- The read loop has sent these bytes, each the answer of one read, between the states `s` and `t` (R105). -/
structure ReadTook (addr : Addr) (i : Nat) (bytes : List Byte) (s t : State) : Prop where
  busLog : t.busLog = (readCycles addr i bytes).reverse ++ s.busLog
  frame : t = { s with
    dev := { s.dev with bus := t.dev.bus }
    link := { s.link with d2h := s.link.d2h ++ bytes }
    chip := t.chip
    busLog := t.busLog }

theorem readLoop_took (addr : Addr) (i left : Nat) (s : State) :
    ∃ bytes, bytes.length = left ∧ ReadTook addr i bytes s (readLoop addr i left s) := by
  induction left generalizing i s with
  | zero => exact ⟨[], rfl, rfl, by rw [List.append_nil]; rfl⟩
  | succ left ih =>
    obtain ⟨bytes, hlen, hlog, hframe⟩ :=
      ih (i + 1) (send [(drvRead (elemAddr addr i) s).1] (drvRead (elemAddr addr i) s).2)
    refine ⟨(drvRead (elemAddr addr i) s).1 :: bytes, congrArg (· + 1) hlen, ?_, ?_⟩ <;> unfold readLoop
    · rw [hlog, readCycles_cons, drvRead_eq]
      simp
    · conv_lhs => rw [hframe]
      simp [send, drvRead_eq]

/-- READ_N answers ACK and the bytes of its read loop, whose cycles are the chip's own (R105). -/
theorem exec_readN_took (addr : Addr) (len : U24) (s : State) :
    ∃ t bytes, exec (.readN addr len) s = .next t ∧ bytes.length = len.toNat
      ∧ t.busLog = (readCycles addr 0 bytes).reverse ++ s.busLog
      ∧ Conversation s.cfg (readCycles addr 0 bytes) s.busLog s.chip t.chip
      ∧ t = answered (s.cfg.ack :: bytes)
          { s with dev := { s.dev with bus := t.dev.bus }, chip := t.chip, busLog := t.busLog } := by
  obtain ⟨bytes, hlen, hlog, hframe⟩ := readLoop_took addr 0 len.toNat (send [s.cfg.ack] s)
  have hexec : exec (.readN addr len) s = .next (toIdle (readLoop addr 0 len.toNat (send [s.cfg.ack] s))) := rfl
  refine ⟨_, bytes, hexec, hlen, hlog, (readLoop_talks addr 0 len.toNat (send [s.cfg.ack] s)).cycles hlog, ?_⟩
  conv_lhs => rw [hframe]
  simp [answered, toIdle]

theorem readCycles_zero (addr : Addr) (bytes : List Byte) :
    readCycles addr 0 bytes = bytes.mapIdx fun n b => readCycleAt (addr + BitVec.ofNat 24 n) b := by
  simp only [readCycles, Nat.zero_add, elemAddr]

/-- Settles O30: the read loop's cycles are those of its bytes, from element 0 on. -/
theorem readNReturnsCellsInOrder : Obligations.ReadNReturnsCellsInOrder := by
  refine fun s addr len => ⟨rfl, ?_⟩
  rw [← funext (readCycles_zero addr)]
  exact exec_readN_took addr len s

/-- With no write in progress and no never-settling cell the reference chip answers a read with the cell, and stays as it is. -/
theorem chipRead_reference {rc : RefChip} (hbusy : rc.busy = none) (hnever : rc.never = []) (log : List BusCycle) (a : Addr) :
    chipRead log a (.reference rc) = (Memory.read rc.mem a.toNat, .reference rc) := by
  simp [chipRead, refRead, hbusy, hnever]

/-- Reads of the idle reference chip answer the cells' contents and leave the chip as it is. -/
theorem readCycles_reference {c : Config} {rc : RefChip} (hbusy : rc.busy = none) (hnever : rc.never = []) {addr : Addr}
    {i : Nat} {bytes : List Byte} {log : List BusCycle} {last : Chip}
    (h : Conversation c (readCycles addr i bytes) log (.reference rc) last) :
    last = .reference rc ∧ ∀ n (hn : n < bytes.length), bytes[n] = Memory.read rc.mem (elemAddr addr (i + n)).toNat := by
  induction bytes generalizing i log with
  | nil => exact ⟨h, nofun⟩
  | cons b bytes ih =>
    rw [readCycles_cons] at h
    simp only [Conversation, readCycleAt, chipRead_reference hbusy hnever] at h
    obtain ⟨hb, hrest⟩ := h
    obtain ⟨hlast, hbytes⟩ := ih hrest
    refine ⟨hlast, fun n hn => ?_⟩
    cases n with
    | zero => exact hb
    | succ n =>
      rw [List.getElem_cons_succ, hbytes n (Nat.lt_of_succ_lt_succ hn), Nat.add_assoc, Nat.add_comm 1]

/-- Settles O32: READ_N's conversation with the idle reference chip. -/
theorem readNOnReferenceChip : Obligations.ReadNOnReferenceChip := by
  intro s rc addr len hchip hbusy hnever
  obtain ⟨t, bytes, hexec, hlen, -, hconversation, ht⟩ := exec_readN_took addr len s
  rw [hchip] at hconversation
  obtain ⟨hlast, hbytes⟩ := readCycles_reference hbusy hnever hconversation
  have hcells : bytes = (List.range len.toNat).map fun n => Memory.read rc.mem (addr + BitVec.ofNat 24 n).toNat :=
    List.ext_getElem (by simp [hlen]) fun n hn _ => by simp [hbytes n hn, elemAddr]
  refine ⟨t, hexec, hlast.trans hchip.symm, ?_⟩
  rw [← hcells, ht]
  rfl

/-! ### Bounds (R111) -/

/-- A command other than OPBUF_EXEC and READ_N makes no bus cycle (R43): it leaves the bus, its record, the chip and the
driver's registers as they are. -/
theorem exec_offBus {s t : State} {i : Instr} (h : exec i s = .next t) (hexec : i ≠ .opbufExec)
    (hread : ∀ addr len, i ≠ .readN addr len) :
    t.dev.bus = s.dev.bus ∧ t.chip = s.chip ∧ t.busLog = s.busLog ∧ t.dev.pollCnt = s.dev.pollCnt
      ∧ t.dev.execIdx = s.dev.execIdx := by
  cases i <;> cases h
  case opbufExec => exact absurd rfl hexec
  case readN addr len => exact absurd rfl (hread addr len)
  case opbufWriten | opbufSetSdp | opbufResetSdp =>
    rw [stageOrReject_eq]
    split <;> exact ⟨rfl, rfl, rfl, rfl, rfl⟩
  all_goals exact ⟨rfl, rfl, rfl, rfl, rfl⟩

/-- Settles O29: the drain's cycles within the budget of its items, one read per byte of READ_N, and none for the others. -/
theorem busCyclesAreBounded : Obligations.BusCyclesAreBounded := by
  intro s t i h
  cases i with
  | opbufExec =>
    obtain ⟨samples, hdrain⟩ := drainFrom_took 0 s.dev.opbuf s
    cases h
    exact ⟨_, hdrain.busLog, by rw [List.length_reverse]; exact hdrain.length_cycles⟩
  | readN addr len =>
    obtain ⟨u, bytes, hexec, hlen, hlog, -, -⟩ := exec_readN_took addr len s
    cases hexec.symm.trans h
    exact ⟨_, hlog, by rw [List.length_reverse, length_readCycles, hlen]⟩
  | _ =>
    obtain ⟨-, -, hlog, -, -⟩ := exec_offBus h nofun nofun
    exact ⟨[], hlog, rfl⟩

end Sys2Proof.Machine
end

section
/-! The responses (R107) and the state of each command (R109). -/
namespace Sys2Proof.Machine

/-- Staging answers one status byte, and is back in IDLE (R107). -/
theorem stageOrReject_answer (refusal : Option NakCause) (items : List Item) (s : State) :
    ∃ st, (stageOrReject refusal items s).dev.fsm = .idle ∧ (stageOrReject refusal items s).link.d2h = s.link.d2h ++ [st]
      ∧ (st = s.cfg.ack ∨ st = s.cfg.nak) := by
  rw [stageOrReject_eq]
  split
  · exact ⟨s.cfg.ack, rfl, rfl, .inl rfl⟩
  · exact ⟨s.cfg.nak, rfl, rfl, .inr rfl⟩

/-- Settles O34: READ_N sends the bytes of its read loop, staging answers by its refusal, and every other command is one
accepted response. -/
theorem responsesHaveTheirShape : Obligations.ResponsesHaveTheirShape := by
  refine ⟨fun s i => ?_, fun _ => rfl⟩
  cases i with
  | opbufWriten | opbufSetSdp | opbufResetSdp =>
    obtain ⟨st, hidle, hd2h, hst⟩ := stageOrReject_answer _ _ s
    exact ⟨_, st, [], rfl, hidle, hd2h, rfl, hst.imp_right fun h => ⟨h, rfl, rfl⟩⟩
  | opbufExec =>
    refine ⟨_, s.cfg.ack, [], exec_opbufExec s, rfl, ?_, rfl, .inl rfl⟩
    rw [drainFrom_frame 0 s.dev.opbuf s]
    rfl
  | readN addr len =>
    obtain ⟨t, bytes, hexec, hlen, -, -, ht⟩ := exec_readN_took addr len s
    exact ⟨t, s.cfg.ack, bytes, hexec, by rw [ht]; rfl, by rw [ht]; rfl, hlen, .inl rfl⟩
  | queryName => exact ⟨_, s.cfg.ack, _, rfl, rfl, rfl, length_boardName s.cfg, .inl rfl⟩
  | _ => exact ⟨_, s.cfg.ack, _, rfl, rfl, rfl, rfl, .inl rfl⟩

/-! ### Frames -/

/-- What no command changes (R109): the configuration, the host, the choices, the bytes on their way to the device and waiting
at it, and the receiver's operands. -/
structure CommandFrame (s t : State) : Prop where
  cfg : t.cfg = s.cfg
  host : t.host = s.host
  env : t.env = s.env
  wire : t.link.wire = s.link.wire
  h2d : t.link.h2d = s.link.h2d
  rxOp : t.dev.rxOp = s.dev.rxOp
  rxHdr : t.dev.rxHdr = s.dev.rxHdr
  rxLen : t.dev.rxLen = s.dev.rxLen
  rxAddr : t.dev.rxAddr = s.dev.rxAddr
  rxData : t.dev.rxData = s.dev.rxData
  rxGot : t.dev.rxGot = s.dev.rxGot

theorem exec_frame {s t : State} {i : Instr} (h : exec i s = .next t) : CommandFrame s t := by
  cases i with
  | opbufWriten | opbufSetSdp | opbufResetSdp =>
    cases h
    rw [stageOrReject_eq]
    split <;> constructor <;> rfl
  | opbufExec =>
    cases (exec_opbufExec s).symm.trans h
    rw [drainFrom_frame 0 s.dev.opbuf s]
    constructor <;> rfl
  | readN addr len =>
    obtain ⟨u, bytes, hexec, -, -, -, hu⟩ := exec_readN_took addr len s
    cases hexec.symm.trans h
    rw [hu]
    constructor <;> rfl
  | _ =>
    cases h
    constructor <;> rfl

/-- Staging only appends to the opbuf (R101 to R103). -/
theorem exec_staging_opbuf {s t : State} {i : Instr} (h : exec i s = .next t) (hstaging : isStaging i = true) :
    ∃ items, t.dev.opbuf = s.dev.opbuf ++ items := by
  cases i with
  | opbufWriten | opbufSetSdp | opbufResetSdp =>
    cases h
    rw [stageOrReject_eq]
    split
    · exact ⟨_, rfl⟩
    · exact ⟨[], (List.append_nil _).symm⟩
  | _ => cases hstaging

/-- Of the commands that stage nothing, OPBUF_INIT and OPBUF_EXEC empty the opbuf and the others leave it (R109). -/
theorem exec_opbuf {s t : State} {i : Instr} (h : exec i s = .next t) (hstaging : isStaging i = false) :
    t.dev.opbuf = if i = .opbufInit ∨ i = .opbufExec then [] else s.dev.opbuf := by
  cases i with
  | opbufWriten | opbufSetSdp | opbufResetSdp => cases hstaging
  | readN addr len =>
    obtain ⟨u, bytes, hexec, -, -, -, hu⟩ := exec_readN_took addr len s
    cases hexec.symm.trans h
    rw [hu]
    rfl
  | _ =>
    cases h
    rfl

/-- READ_N does not poll (R105). -/
theorem exec_readN_driver {s t : State} {addr : Addr} {len : U24} (h : exec (.readN addr len) s = .next t) :
    t.dev.pollCnt = s.dev.pollCnt ∧ t.dev.execIdx = s.dev.execIdx := by
  obtain ⟨u, bytes, hexec, -, -, -, hu⟩ := exec_readN_took addr len s
  cases hexec.symm.trans h
  rw [hu]
  exact ⟨rfl, rfl⟩

/-- Settles O35, clause by clause from the frames of the commands. -/
theorem commandsChangeOnlyTheirState : Obligations.CommandsChangeOnlyTheirState := by
  intro s t i h
  obtain ⟨hcfg, hhost, henv, hwire, hh2d, hop, hhdr, hlen, haddr, hdata, hgot⟩ := exec_frame h
  refine ⟨hcfg, hhost, henv, hwire, hh2d, hop, hhdr, hlen, haddr, hdata, hgot, fun hempty => ?_, exec_staging_opbuf h,
    fun hinit hexec hstaging => ?_, ?_, fun hreset hexec => ?_, fun hexec hread => ?_, fun hexec => ?_⟩
  · have hstaging : isStaging i = false := by rcases hempty with rfl | rfl <;> rfl
    rw [exec_opbuf h hstaging, if_pos hempty]
  · rw [exec_opbuf h hstaging, if_neg (not_or.2 ⟨hinit, hexec⟩)]
  · rintro rfl
    cases h
    rfl
  · obtain hkept | ⟨rfl, -⟩ | ⟨rfl, -⟩ := exec_errcnt h
    · exact hkept
    · exact absurd rfl hexec
    · exact absurd rfl hreset
  · obtain ⟨hbus, hchip, hlog, -, -⟩ := exec_offBus h hexec hread
    exact ⟨hbus, hchip, hlog⟩
  · by_cases hread : ∃ addr len, i = .readN addr len
    · obtain ⟨addr, len, rfl⟩ := hread
      exact exec_readN_driver h
    · obtain ⟨-, -, -, hpoll, hidx⟩ := exec_offBus h hexec fun addr len hi => hread ⟨addr, len, hi⟩
      exact ⟨hpoll, hidx⟩

end Sys2Proof.Machine
end

section
/-! What every step keeps: the configuration (R110), and, outside BUSY, a device-to-host stream that no step adds to (R96). -/
namespace Sys2Proof.Machine

/-- Settles O41: the device's moves are conversations, which keep the configuration, and no other move reaches it. -/
theorem configurationNeverChanges : Obligations.ConfigurationNeverChanges := by
  intro s t h
  obtain ⟨hcfg, -⟩ | ⟨env, hmove⟩ | ⟨rest, -, -, hcfg, -⟩ := step_device_cases h
  · exact hcfg
  · exact (deviceStep_talks hmove).1
  · exact hcfg

/-! ### The bytes waiting for the host -/

/-- The bytes waiting for the host have only lost bytes. -/
def D2hLoses (s t : State) : Prop :=
  t.link.d2h.Sublist s.link.d2h

theorem D2hLoses.of_eq {s t : State} (h : t.link.d2h = s.link.d2h) : D2hLoses s t := by
  rw [D2hLoses, h]

theorem D2hLoses.trans {s t u : State} (h : D2hLoses s t) (k : D2hLoses t u) : D2hLoses s u :=
  List.Sublist.trans k h

theorem arrive_d2h (b : Byte) (s : State) : (arrive b s).link.d2h = s.link.d2h := by
  obtain ⟨env, h2d, h⟩ := arrive_eq b s
  rw [h]

theorem linkStep_d2h (s : State) : (linkStep s).link.d2h = s.link.d2h := by
  unfold linkStep
  split
  · rfl
  · exact arrive_d2h _ _

theorem takeByte_link_d2h (s : State) : (takeByte s).link.d2h = s.link.d2h := by
  unfold takeByte
  split
  · rfl
  · rw [receive_frame]

theorem cutWire_d2h (s : State) : (cutWire s).link.d2h = s.link.d2h := by
  obtain ⟨env, w, -, h⟩ := cutWire_eq s
  rw [h]

/-- Starting a write sends nothing yet. -/
theorem startWrite_link (a : Addr) (d : List Byte) (k : Option Nat) (erase : Bool) (s : State) :
    (startWrite a d k erase s).link = s.link := by
  simp only [startWrite, writeNext]
  repeat' split
  all_goals rfl

/-- Opening may lose bytes not yet read (log 11). -/
theorem hostOpen_d2hLoses (s : State) : D2hLoses s (hostOpen s) := by
  unfold hostOpen
  split
  · exact .of_eq (by simp)
  · obtain ⟨env, late, hlate, h⟩ := openLink_eq (drawBool s).2
    simp only [drawBool_state, draw_link] at hlate h
    rw [drawBool_state, h]
    exact hlate.sublist

/-- A call that starts sends nothing to the host. -/
theorem startCall_d2hLoses (c : Call) (s : State) : D2hLoses s (startCall c s) := by
  cases c with
  | session => exact hostOpen_d2hLoses s
  | write a d k => exact .of_eq (congrArg Link.d2h (startWrite_link a d k false s))
  | erase a n =>
    simp only [startCall]
    split
    · exact .of_eq rfl
    · exact .of_eq (congrArg Link.d2h (startWrite_link a _ none true s))
  | read | verify =>
    simp only [startCall]
    split <;> exact .of_eq rfl
  | close | setLock | clearLock => exact .of_eq rfl

/-- The host takes its response, and the flush may take bytes past it (R118, R123). -/
theorem takeResponse_d2hLoses (p : Phase) (s : State) : D2hLoses s (takeResponse p s) := by
  have hflush : ∀ n, D2hLoses s (flushInput (s.link.d2h.drop n) s) := fun n => by
    obtain ⟨env, late, hlate, h⟩ := flushInput_eq (s.link.d2h.drop n) s
    rw [h]
    exact hlate.sublist.trans (List.drop_sublist n _)
  have hadvance : ∀ st payload t, D2hLoses t (advance p st payload t) := fun st payload t => by
    obtain ⟨-, hlink, -, -, -⟩ := advance_keeps p st payload t
    exact .of_eq (by rw [hlink])
  simp only [takeResponse]
  split
  · exact .of_eq rfl
  · split
    · exact (hflush _).trans (hadvance _ _ _)
    · split
      · exact (hflush _).trans (.trans (.of_eq rfl) (hadvance _ _ (countStatus _ _ _)))
      · exact (hflush _).trans (.of_eq (by rw [hostFatal_link]; rfl))

theorem hostStep_d2hLoses {s t : State} (h : hostStep s = .next t) : D2hLoses s t := by
  unfold hostStep at h
  split at h
  · split at h <;> cases h
    · exact .of_eq rfl
    · exact startCall_d2hLoses _ _
  · split at h
    · cases h
      exact takeResponse_d2hLoses _ s
    · split at h <;> cases h
      exact .of_eq rfl

/-- The part of the response received before a timeout is dropped (R119). -/
theorem timerStep_d2hLoses (s : State) : D2hLoses s (timerStep s) := by
  unfold timerStep
  split
  · exact .of_eq rfl
  · simp only [D2hLoses, hostTimeout, hostFatal_link, cutWire_d2h, drawBelow_state, draw_link]
    exact List.drop_sublist _ _

/-- An input that lands outside BUSY sends nothing to the host: a device reset then has no command to cut. -/
theorem outsideStep_d2h {s : State} (hfsm : s.dev.fsm ≠ .busy) : (outsideStep s).link.d2h = s.link.d2h := by
  unfold outsideStep
  split
  · rfl
  · next input rest _ =>
    cases input with
    | deviceReset =>
      have hcut := cutCommand_idle (s := { s with env := { s.env with inputs := rest } }) hfsm
      simp only [hcut]
      rfl
    | hostCrash => exact cutWire_d2h _
    | startHost calls => rfl
    | rawByte b => rfl

/-- Settles O43: outside BUSY the device only takes bytes, and of the other agents only the host reaches the stream, to take
from it. -/
theorem deviceSendsNothingUnsolicited : Obligations.DeviceSendsNothingUnsolicited := by
  intro s t hfsm h
  obtain ⟨env, -, rfl | ⟨a, -, ha⟩⟩ := step_next_cases h
  · exact D2hLoses.of_eq rfl
  · cases a with
    | device =>
      cases (deviceStep_takeByte (s := { s with env := env }) hfsm).symm.trans ha
      exact D2hLoses.of_eq (takeByte_link_d2h { s with env := env })
    | link =>
      cases ha
      exact D2hLoses.of_eq (linkStep_d2h { s with env := env })
    | host => exact hostStep_d2hLoses (s := { s with env := env }) ha
    | timer =>
      cases ha
      exact timerStep_d2hLoses { s with env := env }
    | outside =>
      cases ha
      exact D2hLoses.of_eq (outsideStep_d2h (s := { s with env := env }) hfsm)

end Sys2Proof.Machine
end

section
/-! OPBUF_EXEC on the reference chip (95_test_vectors.md sections 1 and 2, R104): an ordinary write programs its cell, the
polling outlasts the busy samples, and the cells after the drain are those before it with every item written. -/
namespace Sys2Proof.Machine

/-! ### One write and its polling -/

/-- The reference chip takes an ordinary write at once: it is unlocked, idle, has no never-settling cell, and no SDP sequence
has begun. -/
structure RefReady (rc : RefChip) : Prop where
  unlocked : rc.locked = false
  idle : rc.busy = none
  held : rc.held = []
  settling : rc.never = []

/-- A write cycle that does not begin the sequence is no part of it. -/
theorem singleton_not_beginning {seq : List (Addr × Byte)} {p : Addr × Byte} (h : seq.head? ≠ some p) :
    [p] ≠ seq ∧ properBeginning [p] seq = false := by
  cases seq with
  | nil => simp [properBeginning]
  | cons q rest =>
    have hne : p ≠ q := fun hpq => h (by rw [hpq]; rfl)
    simp [properBeginning, hne]

/-- An item that begins no SDP sequence (R90). -/
def Ordinary (c : Config) (it : Item) : Prop :=
  c.sdpSet.head? ≠ some (it.addr, it.value) ∧ c.sdpClear.head? ≠ some (it.addr, it.value)

/-- The reference chip with `m` busy samples left of a write of `v`. -/
def RefChip.busyFor (rc : RefChip) (v : Byte) (m : Nat) : RefChip :=
  { rc with busy := if m > 0 then some (v, m) else none }

/-- An ordinary write programs its cell and starts the busy samples. -/
theorem refWrite_ordinary {c : Config} {rc : RefChip} {it : Item} (h : RefReady rc) (hord : Ordinary c it) :
    refWrite c rc it.addr it.value =
      RefChip.busyFor { rc with mem := Memory.write rc.mem it.addr.toNat it.value } it.value rc.busyLen := by
  obtain ⟨hunlocked, hidle, hheld, hsettling⟩ := h
  obtain ⟨hset, hclear⟩ := hord
  obtain ⟨hset, hset'⟩ := singleton_not_beginning hset
  obtain ⟨hclear, hclear'⟩ := singleton_not_beginning hclear
  simp [refWrite, refProgram, RefChip.busyFor, hunlocked, hidle, hheld, hsettling, hset, hset', hclear, hclear']

/-- A busy sample has the complement of the written bit 7, and one fewer is left. -/
theorem refRead_busyFor_succ (log : List BusCycle) (rc : RefChip) (v : Byte) (m : Nat) (a : Addr) :
    refRead log (rc.busyFor v (m + 1)) a = (~~~v &&& 0x80, rc.busyFor v m) := by
  cases m <;> simp [refRead, RefChip.busyFor]

/-- With no busy sample left a read answers the cell. -/
theorem refRead_busyFor_zero (log : List BusCycle) {rc : RefChip} (hsettling : rc.never = []) (v : Byte) (a : Addr) :
    refRead log (rc.busyFor v 0) a = (Memory.read rc.mem a.toNat, rc.busyFor v 0) := by
  simp [refRead, RefChip.busyFor, hsettling]

theorem pollDone_complement (v : Byte) : pollDone (~~~v &&& 0x80) v = false := by
  simp [pollDone]

/-- Polling a cell that holds the written value outlasts the busy samples and counts no failure. -/
theorem pollLoop_reference {rc : RefChip} {v : Byte} {m left : Nat} {s : State} (hsettling : rc.never = [])
    (hcell : Memory.read rc.mem s.dev.bus.addr.toNat = v) (hchip : s.chip = .reference (rc.busyFor v m)) (hleft : m < left) :
    (pollLoop v left s).chip = .reference (rc.busyFor v 0) ∧ (pollLoop v left s).dev.errcnt = s.dev.errcnt := by
  induction m generalizing left s with
  | zero =>
    cases left with
    | zero => exact absurd hleft (Nat.lt_irrefl 0)
    | succ left =>
      have hsample := pollSample_eq s
      simp only [hchip, chipRead, refRead_busyFor_zero _ hsettling, hcell] at hsample
      rw [pollLoop, hsample, if_pos (by simp [pollDone])]
      exact ⟨rfl, rfl⟩
  | succ m ih =>
    cases left with
    | zero => exact absurd hleft (Nat.not_lt_zero _)
    | succ left =>
      have hsample := pollSample_eq s
      simp only [hchip, chipRead, refRead_busyFor_succ] at hsample
      rw [pollLoop, hsample, if_neg (Bool.eq_false_iff.1 (pollDone_complement v))]
      exact ih hcell rfl (Nat.lt_of_succ_lt_succ hleft)

/-- An ordinary polled item programs its cell, fails no polling, and leaves the chip ready again. -/
theorem performItem_reference {rc : RefChip} {it : Item} {s : State} (hchip : s.chip = .reference rc) (hready : RefReady rc)
    (hwf : rc.mem.wf) (hbudget : rc.busyLen < s.cfg.pollLimit) (hpolled : it.mode = .polled) (hord : Ordinary s.cfg it) :
    (performItem it s).chip = .reference { rc with mem := Memory.write rc.mem it.addr.toNat it.value }
      ∧ (performItem it s).dev.errcnt = s.dev.errcnt := by
  have hw := writeCycle_eq it.addr it.value (setChipEnable true s) rfl
  simp only [performItem, hpolled, drvPolledWrite, hw]
  have hcell : Memory.read (Memory.write rc.mem it.addr.toNat it.value) it.addr.toNat = it.value := by
    rw [Memory.read_write hwf, if_pos rfl]
  have hwrite := refWrite_ordinary hready hord
  have hidle : RefChip.busyFor { rc with mem := Memory.write rc.mem it.addr.toNat it.value } it.value 0
      = { rc with mem := Memory.write rc.mem it.addr.toNat it.value } := by simp [RefChip.busyFor, hready.idle]
  rw [← hidle]
  refine pollLoop_reference hready.settling hcell ?_ hbudget
  simp [setPollCnt, setChipEnable, hchip, chipWrite, hwrite]

/-! ### The drain -/

/-- The cells after every item has been written, in order. -/
def writeEach (m : Memory) (items : List Item) : Memory :=
  items.foldl (fun m it => Memory.write m it.addr.toNat it.value) m

/-- A drain of ordinary polled items writes every one of them and fails no polling. -/
theorem drainFrom_reference {rc : RefChip} (i : Nat) {items : List Item} {s : State} (hchip : s.chip = .reference rc)
    (hready : RefReady rc) (hwf : rc.mem.wf) (hbudget : rc.busyLen < s.cfg.pollLimit)
    (hitems : ∀ it ∈ items, it.mode = .polled ∧ Ordinary s.cfg it) :
    (drainFrom i items s).chip = .reference { rc with mem := writeEach rc.mem items }
      ∧ (drainFrom i items s).dev.errcnt = s.dev.errcnt := by
  induction items generalizing i s rc with
  | nil => exact ⟨hchip, rfl⟩
  | cons it items ih =>
    obtain ⟨⟨hpolled, hord⟩, hrest⟩ := List.forall_mem_cons.1 hitems
    obtain ⟨hchip', herr⟩ := performItem_reference (s := setExecIdx i s) hchip hready hwf hbudget hpolled hord
    have hcfg : (performItem it (setExecIdx i s)).cfg = s.cfg := (performItem_talks it (setExecIdx i s)).1
    have hready' : RefReady { rc with mem := Memory.write rc.mem it.addr.toNat it.value } :=
      ⟨hready.unlocked, hready.idle, hready.held, hready.settling⟩
    obtain ⟨hchip'', herr'⟩ := ih (i + 1) hchip' hready' (Memory.write_wf it.addr.isLt hwf) (hcfg.symm ▸ hbudget)
      (hcfg.symm ▸ hrest)
    exact ⟨hchip'', herr'.trans herr⟩

/-- A cell no item names is as before. -/
theorem read_writeEach_other {m : Memory} {items : List Item} {a : Nat} (hwf : m.wf) (h : ∀ it ∈ items, a ≠ it.addr.toNat) :
    Memory.read (writeEach m items) a = Memory.read m a := by
  induction items generalizing m with
  | nil => rfl
  | cons it items ih =>
    obtain ⟨hne, hrest⟩ := List.forall_mem_cons.1 h
    exact (ih (Memory.write_wf it.addr.isLt hwf) hrest).trans (by rw [Memory.read_write hwf, if_neg hne])

/-- Where the items name different cells, each leaves its value in its cell. -/
theorem read_writeEach_mem {m : Memory} {items : List Item} {it : Item} (hwf : m.wf)
    (hdistinct : items.Pairwise fun x y => x.addr.toNat ≠ y.addr.toNat) (hmem : it ∈ items) :
    Memory.read (writeEach m items) it.addr.toNat = it.value := by
  induction items generalizing m with
  | nil => cases hmem
  | cons first items ih =>
    obtain ⟨hfirst, hrest⟩ := List.pairwise_cons.1 hdistinct
    have hwf' := Memory.write_wf (v := first.value) first.addr.isLt hwf
    obtain rfl | hmem := List.mem_cons.1 hmem
    · exact (read_writeEach_other hwf' hfirst).trans (by rw [Memory.read_write hwf, if_pos rfl])
    · exact ih hwf' hrest hmem

/-! ### The items of one OPBUF_WRITEN -/

/-- Elements less than 2^24 apart have different addresses (R48). -/
theorem add_ofNat_ne {addr : Addr} {m n : Nat} (hlt : m < n) (hn : n < 2 ^ 24) :
    (addr + BitVec.ofNat 24 m).toNat ≠ (addr + BitVec.ofNat 24 n).toNat := by
  bv_omega

/-- Up to 2^24 data bytes go to different cells. -/
theorem writeItems_distinct {addr : Addr} {data : List Byte} (hlen : data.length ≤ 2 ^ 24) :
    (writeItems addr data).Pairwise fun x y => x.addr.toNat ≠ y.addr.toNat := by
  rw [writeItems_eq_map_range, List.pairwise_map]
  refine List.pairwise_lt_range.imp_of_mem fun {m n} _ hn hlt => add_ofNat_ne hlt ?_
  exact (List.mem_range.1 hn).trans_le hlen

theorem mem_writeItems {addr : Addr} {data : List Byte} {it : Item} :
    it ∈ writeItems addr data ↔
      ∃ n < data.length, { addr := addr + BitVec.ofNat 24 n, value := data.getD n 0, mode := .polled } = it := by
  simp [writeItems_eq_map_range]

/-- Settles O33: the drain of the items writes each of them, and they name different cells. -/
theorem referenceChipKeepsWrittenBytes : Obligations.ReferenceChipKeepsWrittenBytes := by
  intro s rc addr data hchip hunlocked hidle hheld hsettling hwf hbudget hlen hopbuf hord
  have hitems : ∀ it ∈ s.dev.opbuf, it.mode = .polled ∧ Ordinary s.cfg it := by
    refine fun it hit => ⟨?_, hord it hit⟩
    rw [hopbuf] at hit
    obtain ⟨n, -, rfl⟩ := mem_writeItems.1 hit
    rfl
  obtain ⟨hdrained, herr⟩ := drainFrom_reference 0 hchip ⟨hunlocked, hidle, hheld, hsettling⟩ hwf hbudget hitems
  have hcells : chipMemory (answered [s.cfg.ack] (clearOpbuf (drainFrom 0 s.dev.opbuf s)))
      = writeEach rc.mem (writeItems addr data) := by
    rw [← hopbuf]
    exact congrArg Chip.cells hdrained
  have hbefore : chipMemory s = rc.mem := congrArg Chip.cells hchip
  refine ⟨_, exec_opbufExec s, herr, fun n hn => ?_, fun a ha => ?_⟩
  · rw [hcells]
    exact read_writeEach_mem hwf (writeItems_distinct hlen) (mem_writeItems.2 ⟨n, hn, rfl⟩)
  · rw [hcells, hbefore]
    refine read_writeEach_other hwf fun it hit heq => ?_
    obtain ⟨n, hn, rfl⟩ := mem_writeItems.1 hit
    exact ha n hn (BitVec.eq_of_toNat_eq heq)

end Sys2Proof.Machine
end

section
/-! What the host's operations take and leave (R116, R118, R123, R151): each changes the choices, its own part of the link and its
own registers, and says how. -/
namespace Sys2Proof.Machine

/-! ### Choices -/

theorem Drawn.trans {first mid last : Env} (h : Drawn first mid) (k : Drawn mid last) : Drawn first last :=
  ⟨k.inputs.trans h.inputs, k.script.trans h.script, h.draws.trans k.draws⟩

/-- A draw takes a choice and changes nothing else. -/
theorem draw_takes (s : State) : ∃ env, Drawn s.env env ∧ (draw s).2 = { s with env := env } := by
  obtain ⟨env, h, -⟩ := draw_env s
  have hdrawn := draw_drawn s
  rw [h] at hdrawn
  exact ⟨env, hdrawn, h⟩

/-- The flush takes choices, and leaves an ending of the bytes past the response (R123). -/
theorem flushInput_takes (extra : List Byte) (s : State) :
    ∃ env late, Drawn s.env env ∧ late <:+ extra
      ∧ flushInput extra s = { s with env := env, link := { s.link with d2h := late } } := by
  obtain ⟨env, late, hlate, h⟩ := flushInput_eq extra s
  have hdrawn : Drawn s.env (flushInput extra s).env := by
    cases extra with
    | nil => exact .refl s.env
    | cons => exact draw_drawn s
  rw [h] at hdrawn
  exact ⟨env, late, hdrawn, hlate, h⟩

/-- Tearing the transport down takes choices, and leaves a beginning of the bytes on their way (R165). -/
theorem cutWire_takes (s : State) :
    ∃ env wire, Drawn s.env env ∧ wire <+: s.link.wire
      ∧ cutWire s = { s with env := env, link := { s.link with wire := wire } } := by
  obtain ⟨env, wire, hwire, h⟩ := cutWire_eq s
  have hdrawn : Drawn s.env (cutWire s).env := by
    unfold cutWire
    split
    · exact .refl s.env
    · exact draw_drawn s
  rw [h] at hdrawn
  exact ⟨env, wire, hdrawn, hwire, h⟩

/-- Opening the transport takes choices, and leaves an ending of the bytes not yet read (log 11). -/
theorem openLink_takes (s : State) :
    ∃ env late, Drawn s.env env ∧ late <:+ s.link.d2h
      ∧ openLink s = { s with env := env, link := { s.link with d2h := late } } := by
  obtain ⟨env, late, hlate, h⟩ := openLink_eq s
  have hdrawn : Drawn s.env (openLink s).env := by
    unfold openLink
    split
    · exact .refl s.env
    · exact draw_drawn s
  rw [h] at hdrawn
  exact ⟨env, late, hdrawn, hlate, h⟩

/-! ### The error handler -/

/-- The host's registers after its error handler has ended the program (R151), with these entries added to the log. -/
def HostSide.ended (h : HostSide) (cls : ErrorClass) (entries : List LogEntry) : HostSide :=
  { h with
    sess := .aborted, running := false, calls := [], phase := none, sent := false,
    log := h.log ++ entries, exit := some (errorCode cls) }

/-- A fatal error takes a choice and ends the program; after its own entry the log has at most a failure to release the
transport (R151, R153). -/
theorem hostFatal_takes (cls : ErrorClass) (entry : LogEntry) (s : State) :
    ∃ env more, Drawn s.env env ∧ (more = [] ∨ more = [.releaseFailed])
      ∧ hostFatal cls entry s = { s with env := env, host := s.host.ended cls (entry :: more) } := by
  obtain ⟨env, hdrawn, h⟩ := draw_takes s
  simp only [hostFatal, drawBool_state, h]
  by_cases hrelease : (drawBool s).1 = true
  · exact ⟨env, [.releaseFailed], hdrawn, .inr rfl, by simp [hrelease, HostSide.ended]⟩
  · exact ⟨env, [], hdrawn, .inl rfl, by simp [hrelease, HostSide.ended]⟩

/-- A timeout takes choices, drops fewer bytes than the response has, leaves a beginning of the bytes on their way, and ends the
program with a `TransportError` (R118, R124). -/
theorem hostTimeout_takes (i : Instr) (s : State) :
    ∃ env received more wire,
      Drawn s.env env ∧ received ≤ s.link.d2h.length ∧ received < 1 + payloadLength i
      ∧ (more = [] ∨ more = [.releaseFailed]) ∧ wire <+: s.link.wire
      ∧ hostTimeout i s = { s with
          env := env
          link := { s.link with wire := wire, d2h := s.link.d2h.drop received }
          host := s.host.ended .transportError
            (.transport (some (opcodeByte s.cfg.opcodes i.opcode)) received :: more) } := by
  obtain ⟨env1, hdrawn1, hdraw⟩ := draw_takes s
  obtain ⟨received, hreceived⟩ : ∃ n, (drawBelow (min s.link.d2h.length (payloadLength i) + 1) s).1 = n := ⟨_, rfl⟩
  have hlt : received < min s.link.d2h.length (payloadLength i) + 1 := hreceived ▸ drawBelow_lt _ (Nat.succ_pos _) s
  obtain ⟨env2, wire, hdrawn2, hwire, hcut⟩ :=
    cutWire_takes { s with env := env1, link := { s.link with d2h := s.link.d2h.drop received } }
  obtain ⟨env, more, hdrawn, hmore, hfatal⟩ :=
    hostFatal_takes .transportError (.transport (some (opcodeByte s.cfg.opcodes i.opcode)) received)
      { s with env := env2, link := { s.link with wire := wire, d2h := s.link.d2h.drop received } }
  refine ⟨env, received, more, wire, (hdrawn1.trans hdrawn2).trans hdrawn, by omega, by omega, hmore, hwire, ?_⟩
  simp only [hostTimeout, hreceived, drawBelow_state, hdraw, hcut, hfatal]

/-- Opening fails with a `TransportError`, or opens the session and goes to the handshake (R116). -/
theorem hostOpen_takes (s : State) :
    ∃ env late, Drawn s.env env ∧ late <:+ s.link.d2h
      ∧ ((∃ more, (more = [] ∨ more = [.releaseFailed])
          ∧ hostOpen s = { s with env := env, host := s.host.ended .transportError (.transport none 0 :: more) })
        ∨ hostOpen s = { s with
            env := env
            link := { s.link with d2h := late }
            host := { s.host with sess := .opened, phase := some .hsName, sent := false } }) := by
  obtain ⟨env1, hdrawn1, hdraw⟩ := draw_takes s
  simp only [hostOpen, drawBool_state, hdraw]
  split
  · obtain ⟨env, more, hdrawn, hmore, h⟩ := hostFatal_takes .transportError (.transport none 0) { s with env := env1 }
    exact ⟨env, s.link.d2h, hdrawn1.trans hdrawn, List.suffix_refl _, .inl ⟨more, hmore, h⟩⟩
  · obtain ⟨env, late, hdrawn, hlate, h⟩ := openLink_takes { s with env := env1 }
    exact ⟨env, late, hdrawn1.trans hdrawn, hlate, .inr (by rw [h]; rfl)⟩

end Sys2Proof.Machine
end

section
/-! Opening, closing and timing out (R116, R118, R124, R126). -/
namespace Sys2Proof.Machine

/-- Settles O49: the timer of a workflow in progress is `hostTimeout` of its request. -/
theorem timeoutAbortsTheSession : Obligations.TimeoutAbortsTheSession := by
  intro s p hphase
  obtain ⟨env, received, more, wire, hdrawn, hlen, hlt, hmore, hwire, h⟩ := hostTimeout_takes (phaseRequest s.host p) s
  have htimer : timerStep s = hostTimeout (phaseRequest s.host p) s := by simp only [timerStep, hphase]
  rw [htimer, h]
  exact ⟨received, more, wire, hlen, hlt, hmore, hwire, hdrawn, rfl⟩

/-- A choice of 1 makes opening fail. -/
theorem hostOpen_scripted_fails {s : State} {rest : List Nat} (h : s.env.script = 1 :: rest) :
    (hostOpen s).host.sess = .aborted := by
  simp [hostOpen, drawBool, draw_scripted 1 rest s h, hostFatal]

/-- A choice of 0 makes opening succeed. -/
theorem hostOpen_scripted_opens {s : State} {rest : List Nat} (h : s.env.script = 0 :: rest) :
    (hostOpen s).host.sess = .opened := by
  simp [hostOpen, drawBool, draw_scripted 0 rest s h]

/-- Settles O56: Open is `hostOpen`, whose first choice decides between its two outcomes, and Close sets the session and
returns. -/
theorem sessionsOpenAndClose : Obligations.SessionsOpenAndClose := fun s =>
  ⟨hostOpen_takes s, ⟨[1], hostOpen_scripted_fails rfl⟩, ⟨[0], hostOpen_scripted_opens rfl⟩, rfl⟩

end Sys2Proof.Machine
end

section
/-! The host's own step, case by case: the end of its program, a call, a request, a response, or the fault of a request without
an open session (R117, R118). -/
namespace Sys2Proof.Machine

/-- With a request to send and the session open, the host's step sends it. -/
theorem hostStep_sends {s : State} {p : Phase} (hphase : s.host.phase = some p) (hsent : s.host.sent = false)
    (hopen : s.host.sess = .opened) : hostStep s = .next (hostSend (phaseRequest s.host p) s) := by
  simp [hostStep, hphase, hsent, hopen]

/-- With a request to send and the session not open, the host's step is a fault (log 13). -/
theorem hostStep_faults {s : State} {p : Phase} (hphase : s.host.phase = some p) (hsent : s.host.sent = false)
    (hopen : s.host.sess ≠ .opened) : hostStep s = .fault .transactNotOpen := by
  simp [hostStep, hphase, hsent, hopen]

/-- Settles O46, with an open session and without one. -/
theorem requestsAreSentWhole : Obligations.RequestsAreSentWhole :=
  fun _ _ hphase hsent => ⟨hostStep_faults hphase hsent, hostStep_sends hphase hsent⟩

/-- What a move of the host is, where it answers a next state. -/
theorem hostStep_cases {s t : State} (h : hostStep s = .next t) :
    (s.host.phase = none ∧ s.host.calls = [] ∧ t = hostExit s)
    ∨ (∃ c rest, s.host.phase = none ∧ s.host.calls = c :: rest
        ∧ t = startCall c { s with host := { s.host with calls := rest } })
    ∨ (∃ p, s.host.phase = some p ∧ s.host.sent = true ∧ t = takeResponse p s)
    ∨ (∃ p, s.host.phase = some p ∧ s.host.sent = false ∧ s.host.sess = .opened
        ∧ t = hostSend (phaseRequest s.host p) s) := by
  unfold hostStep at h
  split at h
  · next hphase =>
    split at h <;> cases h
    · next hcalls => exact .inl ⟨hphase, hcalls, rfl⟩
    · next c rest hcalls => exact .inr (.inl ⟨c, rest, hphase, hcalls, rfl⟩)
  · next p hphase =>
    split at h
    · next hsent =>
      cases h
      exact .inr (.inr (.inl ⟨p, hphase, hsent, rfl⟩))
    · next hsent =>
      split at h <;> cases h
      next hopen => exact .inr (.inr (.inr ⟨p, hphase, Bool.eq_false_iff.2 hsent, hopen, rfl⟩))

/-- A move of the host faults only where a workflow has a request to send and the session is not open. -/
theorem hostStep_eq_fault {s : State} {f : Fault} (h : hostStep s = .fault f) :
    f = .transactNotOpen ∧ s.host.sess ≠ .opened ∧ s.host.sent = false ∧ s.host.phase.isSome = true := by
  unfold hostStep at h
  split at h
  · split at h <;> cases h
  · next p hphase =>
    split at h
    · cases h
    · next hsent =>
      split at h <;> cases h
      next hopen => exact ⟨rfl, hopen, Bool.eq_false_iff.2 hsent, by rw [hphase]; rfl⟩

/-- A step that faults is the move of an agent that does. -/
theorem step_fault_cases {s : State} {f : Fault} (h : step s = .fault f) :
    ∃ env a, agentStep a { s with env := env } = .fault f := by
  simp only [step, machineStep] at h
  split at h
  · cases h
  · split at h
    · cases h
    · next a u hchoose =>
      obtain ⟨env, rfl, -⟩ := chooseAgent_env hchoose
      exact ⟨env, a, h⟩

/-- Settles O15: of the agents only the host faults, and the choice of the agent leaves its registers. -/
theorem stepFaultsOnlyWithoutSession : Obligations.StepFaultsOnlyWithoutSession := by
  intro s f h
  obtain ⟨env, a, ha⟩ := step_fault_cases h
  cases a with
  | device =>
    obtain ⟨t, ht⟩ := deviceStep_next { s with env := env }
    cases ht.symm.trans ha
  | host => exact hostStep_eq_fault (s := { s with env := env }) ha
  | link | timer | outside => cases ha

end Sys2Proof.Machine
end

section
/-! Taking a whole response, whatever bytes follow it (R118, R121 to R123). -/
namespace Sys2Proof.Machine

section
variable {s : State} {p : Phase} {st : Byte} {payload extra : List Byte}

/-- The whole response is the status byte and the payload, and the bytes after it go to the flush. -/
theorem takeResponse_split (hd2h : s.link.d2h = st :: payload ++ extra)
    (hlen : payload.length = payloadLength (phaseRequest s.host p)) :
    s.link.d2h.take (1 + payloadLength (phaseRequest s.host p)) = st :: payload
      ∧ s.link.d2h.drop (1 + payloadLength (phaseRequest s.host p)) = extra := by
  have hwhole : (st :: payload).length = 1 + payloadLength (phaseRequest s.host p) := by
    rw [List.length_cons, hlen, Nat.add_comm]
  rw [hd2h]
  exact ⟨List.take_left' hwhole, List.drop_left' hwhole⟩

/-- After a response with status `P_ACK` the workflow goes on. -/
theorem takeResponse_ack (hd2h : s.link.d2h = st :: payload ++ extra)
    (hlen : payload.length = payloadLength (phaseRequest s.host p)) (hack : st = s.cfg.ack) :
    takeResponse p s = advance p st payload (flushInput extra s) := by
  obtain ⟨htake, hdrop⟩ := takeResponse_split hd2h hlen
  simp only [takeResponse, htake, hdrop, if_pos hack]

/-- Under `ProceedReported` another status is logged and counted, and the workflow goes on (R121, R122). -/
theorem takeResponse_proceeds (hd2h : s.link.d2h = st :: payload ++ extra)
    (hlen : payload.length = payloadLength (phaseRequest s.host p)) (hack : st ≠ s.cfg.ack)
    (hpolicy : s.cfg.nakPolicy = .proceedReported) :
    takeResponse p s = advance p st payload
      (countStatus (opcodeByte s.cfg.opcodes (phaseRequest s.host p).opcode) st (flushInput extra s)) := by
  obtain ⟨htake, hdrop⟩ := takeResponse_split hd2h hlen
  simp only [takeResponse, htake, hdrop, if_neg hack, hpolicy]

/-- Under `Fatal` another status is logged and counted, and is a `ProtocolError` (R121, R122). -/
theorem takeResponse_fatal (hd2h : s.link.d2h = st :: payload ++ extra)
    (hlen : payload.length = payloadLength (phaseRequest s.host p)) (hack : st ≠ s.cfg.ack)
    (hpolicy : s.cfg.nakPolicy = .fatal) :
    takeResponse p s =
      hostFatal .protocolError (.protocol (opcodeByte s.cfg.opcodes (phaseRequest s.host p).opcode) st)
        (countStatus (opcodeByte s.cfg.opcodes (phaseRequest s.host p).opcode) st (flushInput extra s)) := by
  obtain ⟨htake, hdrop⟩ := takeResponse_split hd2h hlen
  simp only [takeResponse, htake, hdrop, if_neg hack, hpolicy]

end

/-- Settles O48: the workflow goes on from what the flush leaves. -/
theorem ackResponseIsTaken : Obligations.AckResponseIsTaken := by
  intro s p payload extra hd2h hlen
  obtain ⟨env, late, hdrawn, hlate, hflush⟩ := flushInput_takes extra s
  exact ⟨env, late, hdrawn, hlate, by rw [takeResponse_ack hd2h hlen rfl, hflush]⟩

/-- Settles O47: under either policy the status is counted on what the flush leaves; then the workflow goes on, or the error
handler ends the program. -/
theorem nonAckStatusIsReported : Obligations.NonAckStatusIsReported := by
  rintro s p op st payload extra hd2h hlen hack rfl
  obtain ⟨env1, late, hdrawn1, hlate, hflush⟩ := flushInput_takes extra s
  refine ⟨fun hpolicy => ?_, fun hpolicy => ?_⟩
  · exact ⟨env1, late, hdrawn1, hlate, by rw [takeResponse_proceeds hd2h hlen hack hpolicy, hflush]; rfl⟩
  · rw [takeResponse_fatal hd2h hlen hack hpolicy, hflush]
    obtain ⟨env, more, hdrawn, hmore, hfatal⟩ := hostFatal_takes .protocolError
      (.protocol (opcodeByte s.cfg.opcodes (phaseRequest s.host p).opcode) st)
      (countStatus (opcodeByte s.cfg.opcodes (phaseRequest s.host p).opcode) st
        { s with env := env1, link := { s.link with d2h := late } })
    rw [hfatal]
    exact ⟨late, more, hlate, hmore, rfl, hdrawn1.trans hdrawn, by simp [HostSide.ended, countStatus, errorCode]⟩

end Sys2Proof.Machine
end

section
/-! The handshake (R120): its four `Transact`s, and the registers they fill. -/
namespace Sys2Proof.Machine

/-- Where a run has come to a `Transact` that goes on, it comes to what the workflow makes of the answer. -/
theorem hostRun_goes_on {last s : State} {p : Phase} {st : Byte} {payload : List Byte} {rest : List (Byte × List Byte)}
    (hlast : last = (hostRun ((st, payload) :: rest) s).2)
    (hphase : s.host.phase = some p) (hsent : s.host.sent = false) (hopen : s.host.sess = .opened)
    (hlen : payload.length = payloadLength (phaseRequest s.host p)) (hgoes : GoesOn s.cfg ((st, payload) :: rest)) :
    last = (hostRun rest (advance p st payload (transacted p st s))).2 := by
  rw [hlast, hostRun_cons rest hphase (transact_eq hphase hsent hopen hlen hgoes.head)]

/-- Settles O45: the four `Transact`s of the handshake, one after the other; the registers are those of the last state. -/
theorem handshakeFixedOrder : Obligations.HandshakeFixedOrder := by
  rintro s st1 st2 st3 st4 name o0 o1 c0 c1 replies hopen hname rfl hgoes
  have hreturns : Returns [(st1, name), (st2, [o0, o1]), (st3, [c0, c1]), (st4, [])] (hostGoto .hsName s)
      [.queryName, .queryOpbufSize, .querySerbufSize, .errorcntReset] .session :=
    .cons (p := .hsName) rfl rfl hopen hname hgoes rfl <|
    .cons (p := .hsOpbufSize) rfl rfl hopen rfl hgoes.tail rfl <|
    .cons (p := .hsSerbufSize) rfl rfl hopen rfl hgoes.tail.tail rfl <|
    .last (p := .hsErrcntReset) rfl rfl hopen rfl hgoes.tail.tail.tail rfl rfl
  have hnamed := hostRun_goes_on (s := hostGoto .hsName s) rfl rfl rfl hopen hname hgoes
  have hopbuf := hostRun_goes_on (p := .hsOpbufSize) hnamed rfl rfl hopen rfl hgoes.tail
  have hserbuf := hostRun_goes_on (p := .hsSerbufSize) hopbuf rfl rfl hopen rfl hgoes.tail.tail
  have hcleared := hostRun_goes_on (p := .hsErrcntReset) hserbuf rfl rfl hopen rfl hgoes.tail.tail.tail
  rw [hcleared]
  exact ⟨hreturns, rfl, rfl, rfl⟩

end Sys2Proof.Machine
end

section
/-! The host invariant (R117, R125, R131, R139), said of the point a workflow has reached, and what keeps it: each operation of
the host leaves no workflow, or one at a point whose clause holds. -/
namespace Sys2Proof.Machine

/-! ### The invariant of one point -/

/-- What a write keeps from its start to its count: a chunk is not empty (R131) and its length fits a request's 24 bits (R127),
as does the length of the region an erase reads back (R135). -/
structure WriteBounds (chunk : Nat) (j : WriteJob) : Prop where
  chunkPos : 1 ≤ chunk
  chunkFits : min chunk j.data.length < 2 ^ 24
  eraseFits : j.erase = true → j.data.length < 2 ^ 24

/-- The clauses of the host invariant that speak of the point a workflow has reached. -/
def PhaseInv (h : HostSide) : Phase → Prop
  | .writeStage j => h.wStaged = 0 ∧ h.wOff < j.data.length ∧ WriteBounds h.wChunk j
  | .writeExec j => h.wStaged = (writeChunk h j).length ∧ h.wOff < j.data.length ∧ WriteBounds h.wChunk j
  | .writeTrail _ => False
  | .writeCount j => j.erase = true → j.data.length < 2 ^ 24
  | .verify _ d => d.length < 2 ^ 24
  | .hsName => True
  | .hsOpbufSize => True
  | .hsSerbufSize => True
  | .hsErrcntReset => True
  | .read _ _ => True
  | .eraseCheck _ _ _ _ => True
  | .lockStage _ _ => True
  | .lockExec _ => True

/-- The invariant of the host gives the one of the point its workflow has reached. -/
theorem HostInv.phaseInv {s : State} {p : Phase} (hs : HostInv s) (hphase : s.host.phase = some p) :
    PhaseInv s.host p := by
  have herase := fun j => hs.erase p j hphase
  cases p with
  | writeStage j =>
    obtain ⟨hstaged, hoff, hpos, hfits⟩ := hs.stage j hphase
    exact ⟨hstaged, hoff, hpos, hfits, herase j rfl⟩
  | writeExec j =>
    obtain ⟨hstaged, hoff, hpos, hfits⟩ := hs.exec j hphase
    exact ⟨hstaged, hoff, hpos, hfits, herase j rfl⟩
  | writeTrail j => exact hs.noTrail j hphase
  | writeCount j => exact herase j rfl
  | verify a d => exact hs.verify a d hphase
  | _ => trivial

/-- At a point whose own invariant holds, inside a running program and with a request outstanding only in an open session, the
host invariant holds. -/
theorem HostInv.of_phase {s : State} {p : Phase} (hphase : s.host.phase = some p) (hrun : s.host.running = true)
    (hsent : s.host.sent = true → s.host.sess = .opened) (hname : s.host.name.length = 16) (hp : PhaseInv s.host p) :
    HostInv s := by
  have hpoint : ∀ q, s.host.phase = some q → PhaseInv s.host q := fun q hq =>
    Option.some.inj (hphase.symm.trans hq) ▸ hp
  refine ⟨fun h => ⟨hrun, hsent h, by rw [hphase]; rfl⟩, by simp [hrun], hname, fun j => hpoint _, fun j hj => ?_,
    fun j hj => ?_, fun a d => hpoint (.verify a d), fun q j hq hj => ?_⟩
  · obtain ⟨hstaged, hoff, hbounds⟩ := hpoint _ hj
    exact ⟨hstaged, hoff, hbounds.chunkPos, hbounds.chunkFits⟩
  · obtain ⟨hstaged, hoff, hbounds⟩ := hpoint _ hj
    exact ⟨hstaged, hoff, hbounds.chunkPos, hbounds.chunkFits⟩
  · have hq := hpoint q hq
    cases q with
    | writeStage j' | writeExec j' =>
      cases hj
      obtain ⟨-, -, hbounds⟩ := hq
      exact hbounds.eraseFits
    | writeTrail j' => exact hq.elim
    | writeCount j' =>
      cases hj
      exact hq
    | _ => cases hj

/-- Outside a workflow, with no request outstanding, the invariant is that of the name. -/
theorem HostInv.of_noPhase {s : State} (hphase : s.host.phase = none) (hsent : s.host.sent = false)
    (hname : s.host.name.length = 16) : HostInv s := by
  constructor <;> simp [hphase, hsent, hname]

/-- The invariant is about the host only. -/
theorem HostInv.congr {s t : State} (hs : HostInv s) (hhost : t.host = s.host) : HostInv t := by
  cases s
  cases t
  cases hhost
  obtain ⟨houtstanding, hstopped, hname, hnoTrail, hstage, hexec, hverify, herase⟩ := hs
  exact ⟨houtstanding, hstopped, hname, hnoTrail, hstage, hexec, hverify, herase⟩

/-! ### The points a workflow goes to -/

section
variable {s : State} (hrun : s.host.running = true) (hname : s.host.name.length = 16)

include hrun hname

/-- With nothing staged, the head of a write's loop goes to the next chunk or to the count, never to a trailing OPBUF_EXEC
(R131, R139). -/
theorem HostInv.writeNext {j : WriteJob} (hstaged : s.host.wStaged = 0) (hbounds : WriteBounds s.host.wChunk j) :
    HostInv (writeNext j s) := by
  unfold Machine.writeNext
  split
  · next hoff => exact .of_phase rfl hrun nofun hname ⟨hstaged, hoff, hbounds⟩
  · rw [if_neg (by omega)]
    exact .of_phase rfl hrun nofun hname hbounds.eraseFits

/-- A write starts with nothing staged and a chunk size it has checked (R130, R131). -/
theorem HostInv.startWrite (a : Addr) {d : List Byte} (k : Option Nat) {erase : Bool}
    (herase : erase = true → d.length < 2 ^ 24) : HostInv (startWrite a d k erase s) := by
  simp only [Machine.startWrite]
  split
  · exact .of_noPhase rfl rfl hname
  · next hchunk =>
    split
    · exact .of_noPhase rfl rfl hname
    · next hfits =>
      obtain ⟨hpos, -⟩ := not_or.1 hchunk
      refine .writeNext ?_ ?_ ?_ ?_
      exacts [hrun, hname, rfl, ⟨Nat.one_le_iff_ne_zero.2 hpos, Nat.lt_of_not_le hfits, herase⟩]

/-- Whatever a running program calls, the invariant holds where the call leaves the host. -/
theorem HostInv.startCall (c : Call) : HostInv (startCall c s) := by
  cases c with
  | session =>
    obtain ⟨env, late, -, -, ⟨more, -, h⟩ | h⟩ := hostOpen_takes s
    · rw [Machine.startCall, h]
      exact .of_noPhase rfl rfl hname
    · rw [Machine.startCall, h]
      exact .of_phase (p := .hsName) rfl hrun nofun hname trivial
  | close => exact .of_noPhase rfl rfl hname
  | read a n =>
    simp only [Machine.startCall]
    split
    · exact .of_noPhase rfl rfl hname
    · exact .of_phase rfl hrun nofun hname trivial
  | write a d k => exact .startWrite hrun hname a k nofun
  | verify a d =>
    simp only [Machine.startCall]
    split
    · exact .of_noPhase rfl rfl hname
    · next hlen => exact .of_phase rfl hrun nofun hname (Nat.lt_of_not_le hlen)
  | erase a n =>
    simp only [Machine.startCall]
    split
    · exact .of_noPhase rfl rfl hname
    · next hlen =>
      exact .startWrite hrun hname a none fun _ => by
        rw [List.length_replicate]
        exact Nat.lt_of_not_le hlen
  | setLock | clearLock => exact .of_phase rfl hrun nofun hname trivial

end

/-! ### A response -/

/-- From each point of a workflow its answer leads to the next: a chunk is staged, drained and counted off before the next one
(R131). -/
theorem HostInv.advance {s : State} {p : Phase} {payload : List Byte} (hs : HostInv s) (hrun : s.host.running = true)
    (hphase : s.host.phase = some p) (hlen : p = .hsName → payload.length = 16) (st : Byte) :
    HostInv (advance p st payload s) := by
  have hname := hs.name
  have hp := hs.phaseInv hphase
  cases p with
  | hsName => exact .of_phase rfl hrun nofun (hlen rfl) trivial
  | hsOpbufSize | hsSerbufSize | lockStage => exact .of_phase rfl hrun nofun hname trivial
  | hsErrcntReset | read | verify | eraseCheck | lockExec => exact .of_noPhase rfl rfl hname
  | writeStage j =>
    obtain ⟨hstaged, hoff, hpos, hfits, herase⟩ := hp
    have hchunk : s.host.wStaged + (writeChunk s.host j).length = (writeChunk s.host j).length := by
      rw [hstaged, Nat.zero_add]
    exact .of_phase rfl hrun nofun hname ⟨hchunk, hoff, hpos, hfits, herase⟩
  | writeExec j =>
    obtain ⟨-, -, hpos, hfits, herase⟩ := hp
    refine .writeNext ?_ ?_ ?_ ?_
    exacts [hrun, hname, rfl, ⟨hpos, hfits, herase⟩]
  | writeTrail j => exact hp.elim
  | writeCount j =>
    simp only [Machine.advance]
    split
    · exact .of_phase rfl hrun nofun hname trivial
    · exact .of_noPhase rfl rfl hname

/-- A response that is ready is a status byte and the payload of its request, and bytes after it. -/
theorem responseReady_split {i : Instr} {s : State} (h : responseReady i s = true) :
    ∃ st payload extra, s.link.d2h = st :: payload ++ extra ∧ payload.length = payloadLength i := by
  have hle : 1 + payloadLength i ≤ s.link.d2h.length := by simpa [responseReady] using h
  match hd2h : s.link.d2h, hle with
  | [], hle => simp at hle
  | st :: rest, hle =>
    refine ⟨st, rest.take (payloadLength i), rest.drop (payloadLength i), by simp, ?_⟩
    rw [List.length_cons] at hle
    exact List.length_take_of_le (by omega)

/-- The counts and the log are no part of the invariant. -/
theorem HostInv.countStatus {s : State} (hs : HostInv s) (opcode st : Byte) : HostInv (countStatus opcode st s) := by
  obtain ⟨houtstanding, hstopped, hname, hnoTrail, hstage, hexec, hverify, herase⟩ := hs
  exact ⟨houtstanding, hstopped, hname, hnoTrail, hstage, hexec, hverify, herase⟩

theorem HostInv.hostFatal {s : State} (hname : s.host.name.length = 16) (cls : ErrorClass) (entry : LogEntry) :
    HostInv (hostFatal cls entry s) := by
  obtain ⟨env, more, -, -, h⟩ := hostFatal_takes cls entry s
  rw [h]
  exact .of_noPhase rfl rfl hname

/-- Taking a whole response keeps the invariant: the workflow goes on, or the program ends. -/
theorem HostInv.takeResponse {s : State} {p : Phase} (hs : HostInv s) (hrun : s.host.running = true)
    (hphase : s.host.phase = some p) (hready : responseReady (phaseRequest s.host p) s = true) :
    HostInv (takeResponse p s) := by
  obtain ⟨st, payload, extra, hd2h, hlen⟩ := responseReady_split hready
  obtain ⟨env, late, -, -, hflush⟩ := flushInput_takes extra s
  have hlen' : p = .hsName → payload.length = 16 := by
    rintro rfl
    exact hlen
  have hs' : HostInv { s with env := env, link := { s.link with d2h := late } } := hs.congr rfl
  by_cases hack : st = s.cfg.ack
  · rw [takeResponse_ack hd2h hlen hack, hflush]
    exact hs'.advance hrun hphase hlen' st
  · have hcounted := hs'.countStatus (opcodeByte s.cfg.opcodes (phaseRequest s.host p).opcode) st
    cases hpolicy : s.cfg.nakPolicy with
    | proceedReported =>
      rw [takeResponse_proceeds hd2h hlen hack hpolicy, hflush]
      exact hcounted.advance hrun hphase hlen' st
    | fatal =>
      rw [takeResponse_fatal hd2h hlen hack hpolicy, hflush]
      exact .hostFatal hcounted.name _ _

/-! ### The moves -/

/-- The host moves only while a program runs, and takes a response only when it is whole. -/
theorem hostReady_iff {s : State} :
    hostReady s = true ↔ s.host.running = true ∧ ∀ p, s.host.phase = some p → s.host.sent = true →
      responseReady (phaseRequest s.host p) s = true := by
  cases hphase : s.host.phase <;> cases hsent : s.host.sent <;> simp [hostReady, hphase, hsent]

theorem HostInv.hostStep {s t : State} (hs : HostInv s) (hready : hostReady s = true) (h : hostStep s = .next t) :
    HostInv t := by
  obtain ⟨hrun, hwhole⟩ := hostReady_iff.1 hready
  obtain ⟨hphase, -, rfl⟩ | ⟨c, rest, -, -, rfl⟩ | ⟨p, hphase, hsent, rfl⟩ | ⟨p, hphase, -, hopen, rfl⟩ :=
    hostStep_cases h
  · have hsent : s.host.sent = false := Bool.eq_false_iff.2 fun hsent => by
      obtain ⟨-, -, hsome⟩ := hs.outstanding hsent
      simp [hphase] at hsome
    exact .of_noPhase hphase hsent hs.name
  · refine .startCall ?_ ?_ c
    exacts [hrun, hs.name]
  · exact hs.takeResponse hrun hphase (hwhole p hphase hsent)
  · exact .of_phase hphase hrun (fun _ => hopen) hs.name (by cases p <;> exact hs.phaseInv hphase)

theorem HostInv.timerStep {s : State} (hs : HostInv s) : HostInv (timerStep s) := by
  unfold Machine.timerStep
  split
  · exact hs
  · next p _ =>
    obtain ⟨env, received, more, wire, -, -, -, -, -, h⟩ := hostTimeout_takes (phaseRequest s.host p) s
    rw [h]
    exact .of_noPhase rfl rfl hs.name

/-- A move of the device leaves the host as it is. -/
theorem deviceStep_host {s t : State} (h : deviceStep s = .next t) : t.host = s.host := by
  obtain ⟨-, rfl⟩ | ⟨-, i, -, hexec⟩ | ⟨-, -, rfl⟩ := deviceStep_cases h
  · unfold takeByte
    split
    · rfl
    · rw [receive_frame]
  · exact (exec_frame hexec).host
  · rfl

/-- An input that lands leaves the host as it is, or starts or ends its program. -/
theorem HostInv.outsideStep {s : State} (hs : HostInv s) : HostInv (outsideStep s) := by
  unfold Machine.outsideStep
  split
  · exact hs
  · next input rest _ =>
    cases input with
    | deviceReset => exact hs.congr (cutCommand_cutFrame { s with env := { s.env with inputs := rest } }).host
    | startHost calls => exact .of_noPhase rfl rfl (List.length_replicate ..)
    | hostCrash =>
      obtain ⟨env, wire, -, h⟩ := cutWire_eq { s with env := { s.env with inputs := rest } }
      simp only [hostCrash, h]
      exact .of_noPhase rfl rfl hs.name
    | rawByte b => exact hs.congr rfl

/-- Settles O39: a step is a wait or one agent's move; the device and the link leave the host, and each move of the host, its
timer or the outside world keeps the invariant. -/
theorem hostInvariantKept : Obligations.HostInvariantKept := by
  intro s t hs h
  obtain ⟨env, -, rfl | ⟨a, hready, ha⟩⟩ := step_next_cases h
  · exact hs.congr rfl
  · have hs' : HostInv { s with env := env } := hs.congr rfl
    cases a with
    | device => exact hs'.congr (deviceStep_host ha)
    | link =>
      obtain ⟨env', link, hlink⟩ := linkStep_frame { s with env := env }
      cases ha
      exact hs'.congr (by rw [hlink])
    | host => exact hs'.hostStep hready ha
    | timer =>
      cases ha
      exact hs'.timerStep
    | outside =>
      cases ha
      exact hs'.outsideStep

end Sys2Proof.Machine
end

section
/-! The parameter checks of the host's calls (R129 to R131, R134, R135, R148), and the default chunk size. -/
namespace Sys2Proof.Machine

section
variable {s : State} (a : Addr) (d : List Byte) (k : Option Nat) (erase : Bool)

/-- A chunk size of 0, asked for or by default, ends a write before anything is sent (R130, R131). -/
theorem startWrite_chunkZero (h : k.getD (defaultChunk s) = 0 ∨ defaultChunk s = 0) :
    startWrite a d k erase s = hostReturn (.paramError .chunk) s := by
  simp only [startWrite, if_pos h, hostParamError]

/-- So does a chunk whose length no request can hold (R127). -/
theorem startWrite_chunkLong (hsize : k.getD (defaultChunk s) ≠ 0) (hdefault : defaultChunk s ≠ 0)
    (hlong : 2 ^ 24 ≤ min (k.getD (defaultChunk s)) d.length) :
    startWrite a d k erase s = hostReturn (.paramError .len) s := by
  simp only [startWrite, if_neg (not_or.2 ⟨hsize, hdefault⟩), if_pos hlong, hostParamError]

/-- A write that is not refused comes to the head of its loop, with nothing sent or staged (R131). -/
theorem startWrite_begins (hsize : k.getD (defaultChunk s) ≠ 0) (hdefault : defaultChunk s ≠ 0)
    (hfits : min (k.getD (defaultChunk s)) d.length < 2 ^ 24) :
    startWrite a d k erase s =
      writeNext { addr := a, data := d, nak0 := s.host.nakCount, erase := erase }
        { s with host := { s.host with wOff := 0, wStaged := 0, wChunk := k.getD (defaultChunk s) } } := by
  simp only [startWrite, if_neg (not_or.2 ⟨hsize, hdefault⟩), if_neg (Nat.not_le.2 hfits)]

theorem startCall_write : startCall (.write a d k) s = startWrite a d k false s := rfl

theorem startCall_read {n : Nat} (h : n < 2 ^ 24) : startCall (.read a n) s = hostGoto (.read a (BitVec.ofNat 24 n)) s :=
  if_neg (Nat.not_le.2 h)

theorem startCall_verify {d : List Byte} (h : d.length < 2 ^ 24) : startCall (.verify a d) s = hostGoto (.verify a d) s :=
  if_neg (Nat.not_le.2 h)

theorem startCall_erase {n : Nat} (h : n < 2 ^ 24) :
    startCall (.erase a n) s = startWrite a (List.replicate n 0xFF) none true s :=
  if_neg (Nat.not_le.2 h)

end

/-- The head of a write's loop goes to the next point and leaves the chunk size (R131). -/
theorem writeNext_wChunk (j : WriteJob) (s : State) : (writeNext j s).host.wChunk = s.host.wChunk := by
  unfold writeNext
  split_ifs <;> rfl

theorem writeNext_results (j : WriteJob) (s : State) : (writeNext j s).host.results = s.host.results := by
  unfold writeNext
  split_ifs <;> rfl

/-- The default chunk size is one of its three bounds, and so far below what a request can hold (R130). -/
theorem defaultChunk_lt (s : State) : defaultChunk s < 2 ^ 24 := by
  have hcap := s.host.serbufCap.isLt
  unfold defaultChunk
  omega

/-- Settles O50: the least of three, which a write takes as its chunk size unless it is 0. -/
theorem chunkSizeIsTheLeastBound : Obligations.ChunkSizeIsTheLeastBound := by
  refine fun s a d => ⟨?_, fun hzero => startWrite_chunkZero a d none false (.inl hzero), fun hne => ?_⟩
  · unfold defaultChunk
    omega
  · have hfits := (min_le_left (defaultChunk s) d.length).trans_lt (defaultChunk_lt s)
    rw [startCall_write, startWrite_begins a d none false hne hne hfits, writeNext_wChunk]
    rfl

/-- Settles O51: each refusal is a check that comes before anything is sent. -/
theorem longLengthsAreParamErrors : Obligations.LongLengthsAreParamErrors := by
  intro s a n d k
  refine ⟨fun hlen => ⟨if_pos hlen, if_pos hlen⟩, fun hlen => if_pos hlen,
    startWrite_chunkZero a d (some 0) false (.inl rfl), fun hzero => startWrite_chunkZero a d k false (.inr hzero),
    fun hdefault hlong => ?_⟩
  have hsize : n ≠ 0 := by omega
  exact startWrite_chunkLong a d (some n) false hsize hdefault hlong

end Sys2Proof.Machine
end

section
/-! The workflows (R129 to R139): what each sends and returns, whatever the answers that let it go on. -/
namespace Sys2Proof.Machine

/-! ### The status count -/

/-- The status count has grown since `nak0` by the statuses other than `P_ACK` among the answers so far (R121). -/
def CountedSince (nak0 : Nat) (answers : List (Byte × List Byte)) (s : State) : Prop :=
  s.host.nakCount = nak0 + answers.countP fun q => q.1 != s.cfg.ack

theorem CountedSince.zero (s : State) : CountedSince s.host.nakCount [] s := rfl

/-- A `Transact` counts its own answer (R121). -/
theorem CountedSince.transacted {nak0 : Nat} {answers : List (Byte × List Byte)} {s : State} (h : CountedSince nak0 answers s)
    (p : Phase) (st : Byte) (payload : List Byte) : CountedSince nak0 (answers ++ [(st, payload)]) (transacted p st s) := by
  unfold CountedSince at h
  by_cases hack : st = s.cfg.ack <;> simp [CountedSince, Machine.transacted, hack, h, Nat.add_assoc]

/-- The count has grown exactly if some answer was not `P_ACK`: `nak_seen` (R122, R133). -/
theorem CountedSince.nakSeen {nak0 : Nat} {answers : List (Byte × List Byte)} {s : State} (h : CountedSince nak0 answers s) :
    decide (s.host.nakCount > nak0) = nakAmong s.cfg answers := by
  unfold CountedSince at h
  rw [h, nakAmong, Bool.eq_iff_iff, decide_eq_true_iff, List.any_eq_true, ← List.countP_pos_iff]
  omega

/-! ### Read, verify and the lock workflows -/

/-- Settles O55: one `Transact`, whose answer the workflow returns. -/
theorem readAndVerifySendOneRead : Obligations.ReadAndVerifySendOneRead := by
  intro s a n st bytes expected hopen hn hbytes hexpected hgoes
  have hlen : bytes.length = (BitVec.ofNat 24 n).toNat := by
    rw [BitVec.toNat_ofNat, Nat.mod_eq_of_lt hn, hbytes]
  rw [startCall_read a hn, startCall_verify a (hexpected ▸ hn)]
  constructor
  · exact .last (p := .read a (BitVec.ofNat 24 n)) rfl rfl hopen hlen hgoes rfl rfl
  · subst hexpected
    refine .last (p := .verify a expected) rfl rfl hopen hlen hgoes rfl ?_
    exact congrArg (fun pass => s.host.results ++ [Result.verify pass (st != s.cfg.ack)]) (beq_eq_decide ..)

/-- The two `Transact`s of a lock workflow (R136, R137). -/
theorem returns_lock {s : State} {st1 st2 : Byte} (set : Bool) (hopen : s.host.sess = .opened)
    (hgoes : GoesOn s.cfg [(st1, []), (st2, [])]) :
    Returns [(st1, []), (st2, [])] (hostGoto (.lockStage set s.host.nakCount) s)
      [if set then .opbufSetSdp else .opbufResetSdp, .opbufExec] (.lock (nakAmong s.cfg [(st1, []), (st2, [])])) := by
  have hcounted := ((CountedSince.zero s).transacted (.lockStage set s.host.nakCount) st1 []).transacted
    (.lockExec s.host.nakCount) st2 []
  refine .cons (p := .lockStage set s.host.nakCount) rfl rfl hopen ?_ hgoes rfl <|
    .last (p := .lockExec s.host.nakCount) rfl rfl hopen rfl hgoes.tail rfl ?_
  · cases set <;> rfl
  · exact congrArg (fun seen => s.host.results ++ [Result.lock seen]) hcounted.nakSeen

/-- Settles O54: both lock workflows, with their sequence. -/
theorem lockWorkflowsStageThenCommit : Obligations.LockWorkflowsStageThenCommit := by
  rintro s st1 st2 replies hopen rfl hgoes
  exact ⟨returns_lock true hopen hgoes, returns_lock false hopen hgoes⟩

/-! ### The loop of a write -/

/-- Under the configuration `c` the write `j` is in progress, its session open, and these answers have been taken (R131). -/
structure Writing (c : Config) (j : WriteJob) (answers : List (Byte × List Byte)) (s : State) : Prop where
  cfg : s.cfg = c
  opened : s.host.sess = .opened
  counted : CountedSince j.nak0 answers s

/-- The write is at the head of its loop: nothing staged, and the next chunk of `k` bytes begins at `off` (R131). -/
structure AtLoopHead (c : Config) (j : WriteJob) (k off : Nat) (answers : List (Byte × List Byte)) (s : State) : Prop extends
    Writing c j answers s where
  staged : s.host.wStaged = 0
  chunk : s.host.wChunk = k
  offset : s.host.wOff = off

section
variable {c : Config} {j : WriteJob} {k off : Nat} {s : State} {before rest : List (Byte × List Byte)} {requests : List Instr}
  {r : Result}

/-- With data left, the two `Transact`s of one chunk lead back to the head of the loop, behind that chunk (R131). -/
theorem returns_chunk {st1 st2 : Byte} (hs : AtLoopHead c j k off before s) (hleft : off < j.data.length)
    (hgoes : GoesOn c ((st1, []) :: (st2, []) :: rest))
    (hrest : ∀ u, AtLoopHead c j k (off + ((j.data.drop off).take k).length) (before ++ [(st1, [])] ++ [(st2, [])]) u →
      Returns rest (writeNext j u) requests r) :
    Returns ((st1, []) :: (st2, []) :: rest) (writeNext j s)
      (.opbufWriten (BitVec.ofNat 24 ((j.data.drop off).take k).length) (elemAddr j.addr off) ((j.data.drop off).take k)
        :: .opbufExec :: requests) r := by
  obtain ⟨⟨rfl, hopen, hcounted⟩, hstaged, rfl, rfl⟩ := hs
  have hcounted' := (hcounted.transacted (.writeStage j) st1 []).transacted (.writeExec j) st2 []
  rw [writeNext, if_pos hleft]
  refine .cons (p := .writeStage j) rfl rfl hopen rfl hgoes rfl <|
    .cons (p := .writeExec j) rfl rfl hopen rfl hgoes.tail (writeNext_results j _) <|
    hrest _ ⟨⟨rfl, hopen, hcounted'⟩, rfl, rfl, rfl⟩

/-- With no data left, the loop is over, and the write goes to its count, nothing being staged (R131, R139). -/
theorem returns_loopOver {acks tail : List (Byte × List Byte)} (hs : AtLoopHead c j k off before s)
    (hdone : j.data.length ≤ off) (hacks : acks.length = 0)
    (hcount : ∀ u, Writing c j (before ++ acks) u → Returns tail (hostGoto (.writeCount j) u) requests r) :
    Returns (acks ++ tail) (writeNext j s) requests r := by
  cases List.length_eq_zero_iff.1 hacks
  rw [List.append_nil] at hcount
  obtain ⟨hwriting, hstaged, -, rfl⟩ := hs
  rw [writeNext, if_neg (Nat.not_lt.2 hdone), if_neg (by omega)]
  exact hcount s hwriting

/-- The bytes after a chunk are those from its end on, a short last chunk included. -/
theorem drop_chunk (d : List Byte) (off k : Nat) :
    (d.drop off).drop k = d.drop (off + ((d.drop off).take k).length) := by
  rw [List.drop_drop, List.drop_eq_drop_iff, List.length_take, List.length_drop]
  omega

/-- The loop sends the requests of its chunks, whatever it goes on with at the count. By induction on the chunks (R131). -/
theorem returns_writeNext {fuel : Nat} {acks tail : List (Byte × List Byte)} {more : List Instr}
    (hs : AtLoopHead c j k off before s) (hk : k ≠ 0) (hfuel : j.data.length ≤ off + fuel)
    (hacks : acks.length = (writeFramesFrom j.addr k fuel off (j.data.drop off)).length) (hbare : ∀ q ∈ acks, q.2 = [])
    (hgoes : GoesOn c (acks ++ tail))
    (hcount : ∀ u, Writing c j (before ++ acks) u → Returns tail (hostGoto (.writeCount j) u) more r) :
    Returns (acks ++ tail) (writeNext j s) (writeFramesFrom j.addr k fuel off (j.data.drop off) ++ more) r := by
  induction fuel generalizing s off before acks with
  | zero => exact returns_loopOver hs hfuel hacks hcount
  | succ fuel ih =>
    unfold writeFramesFrom at hacks ⊢
    split at hacks
    · next hnil =>
      rw [if_pos hnil]
      exact returns_loopOver hs (List.drop_eq_nil_iff.1 hnil) hacks hcount
    · next hne =>
      have hleft : off < j.data.length := by simpa using hne
      rw [if_neg hne, drop_chunk]
      rw [drop_chunk] at hacks
      obtain _ | ⟨⟨st1, bare1⟩, _ | ⟨⟨st2, bare2⟩, acks⟩⟩ := acks
      · cases hacks
      · cases hacks
      obtain ⟨rfl, rfl, hbares⟩ : bare1 = [] ∧ bare2 = [] ∧ ∀ q ∈ acks, q.2 = [] := by simpa using hbare
      refine returns_chunk hs hleft hgoes fun u hu => ?_
      refine ih hu ?_ (by simpa using hacks) hbares hgoes.tail.tail fun v hv => hcount v ?_
      · rw [List.length_take, List.length_drop]
        omega
      · simpa using hv

end

/-- A write that is not refused sends the requests of its chunks, whatever it goes on with at the count (R131). -/
theorem returns_startWrite {s : State} {a : Addr} {d : List Byte} {k : Option Nat} {size : Nat} {erase : Bool}
    {acks tail : List (Byte × List Byte)} {more : List Instr} {r : Result} (hopen : s.host.sess = .opened)
    (hdefault : defaultChunk s ≠ 0) (hk : k.getD (defaultChunk s) = size) (hsize : size ≠ 0)
    (hfits : min size d.length < 2 ^ 24) (hacks : acks.length = (writeFrames a size d).length)
    (hbare : ∀ q ∈ acks, q.2 = []) (hgoes : GoesOn s.cfg (acks ++ tail))
    (hcount : ∀ u, Writing s.cfg ⟨a, d, s.host.nakCount, erase⟩ acks u →
      Returns tail (hostGoto (.writeCount ⟨a, d, s.host.nakCount, erase⟩) u) more r) :
    Returns (acks ++ tail) (startWrite a d k erase s) (writeFrames a size d ++ more) r := by
  subst hk
  rw [startWrite_begins a d k erase hsize hdefault hfits]
  have hhead : AtLoopHead s.cfg ⟨a, d, s.host.nakCount, erase⟩ (k.getD (defaultChunk s)) 0 []
      { s with host := { s.host with wOff := 0, wStaged := 0, wChunk := k.getD (defaultChunk s) } } :=
    ⟨⟨rfl, hopen, .zero s⟩, rfl, rfl, rfl⟩
  exact returns_writeNext hhead hsize (Nat.le_add_left ..) hacks hbare hgoes hcount

/-! ### Write and erase -/

/-- At its count a write has seen every answer of its loop, and the one to the count itself (R131, R133). -/
theorem Writing.nakSeen {c : Config} {j : WriteJob} {answers : List (Byte × List Byte)} {u : State}
    (h : Writing c j answers u) (st : Byte) (payload : List Byte) :
    decide ((transacted (.writeCount j) st u).host.nakCount > j.nak0) = nakAmong c (answers ++ [(st, payload)]) := by
  obtain ⟨rfl, -, hcounted⟩ := h
  exact (hcounted.transacted (.writeCount j) st payload).nakSeen

theorem GoesOn.append_right {c : Config} {xs ys : List (Byte × List Byte)} (h : GoesOn c (xs ++ ys)) : GoesOn c ys :=
  h.imp id fun hack q hq => hack q (List.mem_append_right _ hq)

/-- The bytes read back are blank exactly if each is 0xFF (R135). -/
theorem beq_replicate_eq (cells : List Byte) (n : Nat) (b : Byte) (hlen : cells.length = n) :
    (cells == List.replicate n b) = decide (∀ x ∈ cells, x = b) := by
  rw [beq_eq_decide, decide_eq_decide, List.eq_replicate_iff, and_iff_right hlen]

/-- Settles O52: the count is the last `Transact`, and every answer of the loop has been counted. -/
theorem writeSendsChunksThenCount : Obligations.WriteSendsChunksThenCount := by
  rintro s a d k size acks replies st e0 e1 e2 e3 hopen hdefault rfl hsize hfits hacks hbare rfl hgoes
  refine returns_startWrite hopen hdefault rfl hsize hfits hacks hbare hgoes fun u hu => ?_
  have hgoes' : GoesOn u.cfg [(st, [e0, e1, e2, e3])] := hu.cfg ▸ hgoes.append_right
  refine .last (p := .writeCount ⟨a, d, s.host.nakCount, false⟩) rfl rfl hu.opened rfl hgoes' rfl ?_
  exact congrArg (fun seen => u.host.results ++ [Result.write (readLe32 [e0, e1, e2, e3]) seen]) (hu.nakSeen st _)

/-- After its count an erase goes on to read its region back (R135). -/
theorem advance_writeCount_erase {j : WriteJob} (h : j.erase = true) (st : Byte) (payload : List Byte) (s : State) :
    advance (.writeCount j) st payload s =
      hostGoto (.eraseCheck j.addr (BitVec.ofNat 24 j.data.length) (readLe32 payload) (decide (s.host.nakCount > j.nak0))) s :=
  if_pos h

/-- The blank check is one READ_N, and the last `Transact` of an erase (R135). -/
theorem returns_eraseCheck {s : State} {n : Nat} {st : Byte} {cells : List Byte} (a : Addr) (errcnt : U32) (seen : Bool)
    (hopen : s.host.sess = .opened) (hn : n < 2 ^ 24) (hcells : cells.length = n) (hgoes : GoesOn s.cfg [(st, cells)]) :
    Returns [(st, cells)] (hostGoto (.eraseCheck a (BitVec.ofNat 24 n) errcnt seen) s) [.readN a (BitVec.ofNat 24 n)]
      (.erase errcnt (decide (∀ b ∈ cells, b = 0xFF)) (seen || st != s.cfg.ack)) := by
  have hwidth : cells.length = (BitVec.ofNat 24 n).toNat := by rw [BitVec.toNat_ofNat, Nat.mod_eq_of_lt hn, hcells]
  refine .last (p := .eraseCheck a (BitVec.ofNat 24 n) errcnt seen) rfl rfl hopen hwidth hgoes rfl ?_
  exact congrArg (fun blank => s.host.results ++ [Result.erase errcnt blank (seen || st != s.cfg.ack)])
    (beq_replicate_eq cells _ 0xFF hwidth)

/-- Settles O53: after the count one more `Transact` reads the region back. -/
theorem eraseWritesThenBlankChecks : Obligations.EraseWritesThenBlankChecks := by
  rintro s a n acks replies st1 st2 e0 e1 e2 e3 cells hopen hdefault hn hacks hbare hcells rfl hgoes
  have hlen : (List.replicate n (0xFF : Byte)).length = n := List.length_replicate ..
  have hseen : nakAmong s.cfg (acks ++ [(st1, [e0, e1, e2, e3]), (st2, cells)])
      = (nakAmong s.cfg (acks ++ [(st1, [e0, e1, e2, e3])]) || st2 != s.cfg.ack) := by
    simp [nakAmong, Bool.or_assoc]
  rw [startCall_erase a hn, hseen]
  refine returns_startWrite hopen hdefault rfl hdefault (by omega) hacks hbare hgoes fun u hu => ?_
  have hgoes' : GoesOn u.cfg [(st1, [e0, e1, e2, e3]), (st2, cells)] := hu.cfg ▸ hgoes.append_right
  refine .cons (p := .writeCount ⟨a, List.replicate n 0xFF, s.host.nakCount, true⟩) rfl rfl hu.opened rfl hgoes' rfl ?_
  rw [advance_writeCount_erase rfl, hlen, ← hu.nakSeen, ← hu.cfg]
  exact returns_eraseCheck a _ _ hu.opened hn hcells hgoes'.tail

/-! ### The frames of a write -/

/-- The number of chunks of a write, chunk by chunk (R139). -/
theorem ceil_chunks {k n : Nat} (hk : 1 ≤ k) (hn : n ≠ 0) : (n - k + k - 1) / k + 1 = (n + k - 1) / k := by
  obtain hle | hlt := Nat.le_total n k
  · rw [Nat.sub_eq_zero_of_le hle, Nat.zero_add, Nat.div_eq_of_lt (by omega)]
    exact (Nat.div_eq_of_lt_le (by omega) (by omega)).symm
  · rw [← Nat.add_div_right _ hk]
    congr 1
    omega

/-- The requests of a write are ⌈n / k⌉ pairs, whose data together are the bytes of the write (R139). -/
theorem writeFramesFrom_pairs {k fuel : Nat} (hk : 1 ≤ k) (a : Addr) (off : Nat) {d : List Byte} (hfuel : d.length ≤ fuel) :
    ∃ pairs : List (U24 × Addr × List Byte),
      pairs.length = (d.length + k - 1) / k
      ∧ pairs.flatMap (fun p => p.2.2) = d
      ∧ writeFramesFrom a k fuel off d = pairs.flatMap fun p => [.opbufWriten p.1 p.2.1 p.2.2, .opbufExec] := by
  induction fuel generalizing off d with
  | zero =>
    cases List.length_eq_zero_iff.1 (Nat.le_zero.1 hfuel)
    exact ⟨[], (Nat.div_eq_of_lt (by simp; omega)).symm, rfl, rfl⟩
  | succ fuel ih =>
    unfold writeFramesFrom
    split
    · next hnil =>
      cases hnil
      exact ⟨[], (Nat.div_eq_of_lt (by simp; omega)).symm, rfl, rfl⟩
    · next hne =>
      have hpos := List.length_pos_iff.2 hne
      obtain ⟨pairs, hlen, hdata, hframes⟩ := ih (off + (d.take k).length) (d := d.drop k) (by rw [List.length_drop]; omega)
      refine ⟨(BitVec.ofNat 24 (d.take k).length, elemAddr a off, d.take k) :: pairs, ?_, ?_, ?_⟩
      · rw [List.length_cons, hlen, List.length_drop, ceil_chunks hk hpos.ne']
      · rw [List.flatMap_cons, hdata, List.take_append_drop]
      · rw [hframes]
        rfl

/-- Settles O58: the requests are those of O52, said as pairs. -/
theorem writeFrameCount : Obligations.WriteFrameCount := by
  rintro s a k d acks replies ⟨st, counter⟩ hopen hdefault hk hfits hacks hbare hcounter rfl hgoes
  obtain ⟨e0, e1, e2, e3, rfl⟩ := List.length_eq_four.1 hcounter
  obtain ⟨pairs, hlen, hdata, hframes⟩ := writeFramesFrom_pairs hk a 0 (d := d) le_rfl
  have hacks' : acks.length = (writeFrames a k d).length := by
    rw [hacks, writeFrames, hframes, ← hlen]
    simp [List.length_flatMap, Nat.mul_comm]
  have hreturns := writeSendsChunksThenCount s a d (some k) k acks _ st e0 e1 e2 e3 hopen hdefault rfl (by omega) hfits
    hacks' hbare rfl hgoes
  exact ⟨pairs, hlen, hdata, hframes ▸ hreturns.sends⟩

end Sys2Proof.Machine
end

section
/-! Chunking on the device (R132, R138, R139): what the driver does on the bus depends on no more than the configuration, the
chip, its history and the error counter; so draining chunk by chunk is draining all the bytes at once. -/
namespace Sys2Proof.Machine

/-! ### What the bus shows -/

/-- Two states the bus cannot tell apart: the chip, its history, the error counter and the configuration agree. -/
structure OnBusEq (s t : State) : Prop where
  cfg : s.cfg = t.cfg
  chip : s.chip = t.chip
  busLog : s.busLog = t.busLog
  errcnt : s.dev.errcnt = t.dev.errcnt

theorem OnBusEq.refl (s : State) : OnBusEq s s := ⟨rfl, rfl, rfl, rfl⟩

theorem OnBusEq.trans {s t u : State} (h : OnBusEq s t) (k : OnBusEq t u) : OnBusEq s u :=
  ⟨h.cfg.trans k.cfg, h.chip.trans k.chip, h.busLog.trans k.busLog, h.errcnt.trans k.errcnt⟩

/-- With the bus registers equal too, a polling sample gives the same byte and leaves the states alike (R88). -/
theorem pollSample_onBusEq {s t : State} (h : OnBusEq s t) (hbus : s.dev.bus = t.dev.bus) :
    (pollSample s).1 = (pollSample t).1 ∧ OnBusEq (pollSample s).2 (pollSample t).2
      ∧ (pollSample s).2.dev.bus = (pollSample t).2.dev.bus := by
  obtain ⟨hcfg, hchip, hlog, herr⟩ := h
  rw [pollSample_eq, pollSample_eq, hchip, hlog, hbus]
  exact ⟨rfl, ⟨hcfg, rfl, rfl, herr⟩, rfl⟩

/-- The polling loop sees the same samples, and so ends alike (R88). -/
theorem pollLoop_onBusEq (v : Byte) (left : Nat) {s t : State} (h : OnBusEq s t) (hbus : s.dev.bus = t.dev.bus) :
    OnBusEq (pollLoop v left s) (pollLoop v left t) := by
  induction left generalizing s t with
  | zero => exact ⟨h.cfg, h.chip, h.busLog, congrArg satInc32 h.errcnt⟩
  | succ left ih =>
    obtain ⟨hsample, hnext, hbus'⟩ := pollSample_onBusEq h hbus
    unfold pollLoop
    rw [hsample]
    split
    · exact ⟨hnext.cfg, hnext.chip, hnext.busLog, hnext.errcnt⟩
    · exact ih hnext hbus'

/-- A performed item presents its own address and value, so it needs no bus register to be equal before it (R87, R88). -/
theorem performItem_onBusEq (it : Item) {s t : State} (h : OnBusEq s t) : OnBusEq (performItem it s) (performItem it t) := by
  obtain ⟨hcfg, hchip, hlog, herr⟩ := h
  unfold performItem
  split
  · simp only [drvPolledWrite]
    rw [writeCycle_eq _ _ (setChipEnable true s) rfl, writeCycle_eq _ _ (setChipEnable true t) rfl]
    simp only [setChipEnable, hcfg, hchip, hlog]
    exact pollLoop_onBusEq _ _ ⟨rfl, rfl, rfl, herr⟩ rfl
  · rw [drvFastWrite_eq, drvFastWrite_eq, hcfg, hchip, hlog]
    exact ⟨rfl, rfl, rfl, herr⟩

/-- A drain does the same on the bus from either state, whatever its items are numbered from (R104). -/
theorem drainFrom_onBusEq (i j : Nat) (items : List Item) {s t : State} (h : OnBusEq s t) :
    OnBusEq (drainFrom i items s) (drainFrom j items t) := by
  induction items generalizing i j s t with
  | nil => exact h
  | cons it items ih =>
    have hidx : OnBusEq (setExecIdx i s) (setExecIdx j t) := ⟨h.cfg, h.chip, h.busLog, h.errcnt⟩
    exact ih (i + 1) (j + 1) (performItem_onBusEq it hidx)

/-! ### Drains and items in parts -/

theorem drainFrom_append (i : Nat) (xs ys : List Item) (s : State) :
    drainFrom i (xs ++ ys) s = drainFrom (i + xs.length) ys (drainFrom i xs s) := by
  induction xs generalizing i s with
  | nil => rfl
  | cons it xs ih =>
    rw [List.cons_append, drainFrom, ih, List.length_cons, Nat.add_assoc, Nat.add_comm 1, drainFrom]

/-- The drain sends nothing. -/
theorem drainFrom_link (i : Nat) (items : List Item) (s : State) : (drainFrom i items s).link = s.link := by
  rw [drainFrom_frame i items s]

theorem writeItemsFrom_append (addr : Addr) (i : Nat) (xs ys : List Byte) :
    writeItemsFrom addr i (xs ++ ys) = writeItemsFrom addr i xs ++ writeItemsFrom addr (i + xs.length) ys := by
  simp only [writeItemsFrom_eq_mapIdx, List.mapIdx_append, Nat.add_assoc, Nat.add_comm xs.length]

/-- Element `n` of the access that starts at element `i` is element `i + n` (R48, R132). -/
theorem elemAddr_elemAddr (addr : Addr) (i n : Nat) : elemAddr (elemAddr addr i) n = elemAddr addr (i + n) := by
  simp only [elemAddr, BitVec.ofNat_add, BitVec.add_assoc]

/-- A chunk sent to the address of its first byte stages the items it has in the whole write (R132). -/
theorem writeItems_elemAddr (addr : Addr) (i : Nat) (data : List Byte) :
    writeItems (elemAddr addr i) data = writeItemsFrom addr i data := by
  simp only [writeItems_eq_mapIdx, writeItemsFrom_eq_mapIdx, elemAddr_elemAddr]

/-! ### One chunk, and all of them -/

/-- The state after a chunk has been staged into an empty opbuf and drained, both acknowledged. -/
def chunkDrained (items : List Item) (s : State) : State :=
  answered [s.cfg.ack] (clearOpbuf (drainFrom 0 items (answered [s.cfg.ack] (stage items s))))

section
variable (items : List Item) (s : State)

theorem chunkDrained_cfg : (chunkDrained items s).cfg = s.cfg :=
  (drainFrom_frame 0 items (answered [s.cfg.ack] (stage items s))).cutFrame.cfg

theorem chunkDrained_opbuf : (chunkDrained items s).dev.opbuf = [] := rfl

theorem chunkDrained_d2h : (chunkDrained items s).link.d2h = s.link.d2h ++ [s.cfg.ack, s.cfg.ack] := by
  have hlink := drainFrom_link 0 items (answered [s.cfg.ack] (stage items s))
  simp only [chunkDrained, answered, clearOpbuf_link] at hlink ⊢
  rw [hlink, stage_link, List.append_assoc, List.singleton_append]

/-- On the bus, staging and draining a chunk is its drain. -/
theorem chunkDrained_onBusEq (i : Nat) : OnBusEq (chunkDrained items s) (drainFrom i items s) := by
  have hdrain : OnBusEq (drainFrom 0 items (answered [s.cfg.ack] (stage items s))) (drainFrom i items s) :=
    drainFrom_onBusEq 0 i items ⟨rfl, rfl, rfl, rfl⟩
  exact ⟨hdrain.cfg, hdrain.chip, hdrain.busLog, hdrain.errcnt⟩

end

/-- A chunk within both capacities is staged whole into an empty opbuf, and the OPBUF_EXEC drains it (R101, R104). -/
theorem runRequests_chunk {s : State} {chunk : List Byte} (addr : Addr) (rest : List Instr) (hempty : s.dev.opbuf = [])
    (hframe : chunk.length ≤ s.cfg.serbufCap.toNat) (hfits : chunk.length ≤ s.cfg.opbufCap.toNat) :
    runRequests (.opbufWriten (BitVec.ofNat 24 chunk.length) addr chunk :: .opbufExec :: rest) s
      = runRequests rest (chunkDrained (writeItems addr chunk) s) := by
  have hlen : (BitVec.ofNat 24 chunk.length).toNat = chunk.length := by
    rw [BitVec.toNat_ofNat]
    have := s.cfg.serbufCap.isLt
    omega
  have haccepted : writenRefusal s (BitVec.ofNat 24 chunk.length) = none :=
    writenRefusal_eq_none.2 (by simp [hlen, hempty, hframe, hfits])
  have hstaged : exec (.opbufWriten (BitVec.ofNat 24 chunk.length) addr chunk) s
      = .next (answered [s.cfg.ack] (stage (writeItems addr chunk) s)) := by
    simp only [exec, execOpbufWriten, haccepted, hlen, List.take_length, stageOrReject_eq, if_true]
  have hopbuf : (answered [s.cfg.ack] (stage (writeItems addr chunk) s)).dev.opbuf = writeItems addr chunk := by
    simp [answered, hempty]
  simp only [runRequests, hstaged, exec_opbufExec, hopbuf]
  rfl

/-- What the requests of a chunked write of the bytes from offset `off` on do: each is acknowledged, the opbuf is empty
again, and on the bus they are one drain of all the bytes. -/
structure ChunksTook (a : Addr) (off : Nat) (d : List Byte) (frames : List Instr) (s t : State) : Prop where
  runs : runRequests frames s = some t
  opbuf : t.dev.opbuf = []
  d2h : t.link.d2h = s.link.d2h ++ List.replicate frames.length s.cfg.ack
  onBus : ∀ i, OnBusEq t (drainFrom i (writeItemsFrom a off d) s)

/-- By induction on the chunks: the first one is drained, and the rest of the write goes on from there (R131, R138, R139). -/
theorem writeFramesFrom_took {k : Nat} (hk : 1 ≤ k) (a : Addr) {fuel off : Nat} {d : List Byte} {s : State}
    (hfuel : d.length ≤ fuel) (hframe : k ≤ s.cfg.serbufCap.toNat) (hfits : k ≤ s.cfg.opbufCap.toNat)
    (hempty : s.dev.opbuf = []) : ∃ t, ChunksTook a off d (writeFramesFrom a k fuel off d) s t := by
  induction fuel generalizing off d s with
  | zero =>
    cases List.length_eq_zero_iff.1 (Nat.le_zero.1 hfuel)
    exact ⟨s, rfl, hempty, (List.append_nil _).symm, fun _ => .refl s⟩
  | succ fuel ih =>
    unfold writeFramesFrom
    split
    · next hnil =>
      cases hnil
      exact ⟨s, rfl, hempty, (List.append_nil _).symm, fun _ => .refl s⟩
    · next hne =>
      have hpos := List.length_pos_iff.2 hne
      have hchunk : (d.take k).length ≤ k := List.length_take_le k d
      have hcfg := chunkDrained_cfg (writeItems (elemAddr a off) (d.take k)) s
      obtain ⟨t, hruns, hopbuf, hd2h, honBus⟩ := ih (off := off + (d.take k).length) (d := d.drop k)
        (s := chunkDrained (writeItems (elemAddr a off) (d.take k)) s) (by rw [List.length_drop]; omega) (hcfg ▸ hframe)
        (hcfg ▸ hfits) rfl
      refine ⟨t, ?_, hopbuf, ?_, fun i => ?_⟩
      · rw [runRequests_chunk _ _ hempty (hchunk.trans hframe) (hchunk.trans hfits), hruns]
      · rw [hd2h, chunkDrained_d2h, hcfg]
        simp [List.replicate_succ]
      · have hitems : writeItemsFrom a off d
            = writeItemsFrom a off (d.take k) ++ writeItemsFrom a (off + (d.take k).length) (d.drop k) := by
          rw [← writeItemsFrom_append, List.take_append_drop]
        rw [hitems, drainFrom_append]
        refine (honBus 0).trans (drainFrom_onBusEq _ _ _ ?_)
        rw [writeItems_elemAddr]
        exact chunkDrained_onBusEq _ s i

/-- Settles O59: every chunk is acknowledged and drained, by induction on the chunks. -/
theorem chunkedWriteIsNeverRefused : Obligations.ChunkedWriteIsNeverRefused := by
  intro s a d k hk hframe hfits hempty
  obtain ⟨t, hruns, hopbuf, hd2h, -⟩ := writeFramesFrom_took hk a (off := 0) le_rfl hframe hfits hempty
  exact ⟨t, hruns, hopbuf, hd2h⟩

/-- Settles O60: the drains of the chunks, one after the other, are on the bus the drain of all their items. -/
theorem chunkingIsTransparent : Obligations.ChunkingIsTransparent := by
  intro s a d k hk hframe hfits hempty
  obtain ⟨t, hruns, -, -, honBus⟩ := writeFramesFrom_took hk a (off := 0) (d := d) le_rfl hframe hfits hempty
  obtain ⟨-, hchip, hlog, herr⟩ := honBus 0
  exact ⟨t, hruns, hchip, hlog, herr⟩

end Sys2Proof.Machine
end

section
/-! The host's moves, its errors and its timeouts leave the device and the chip as they are (R142, R117). -/
namespace Sys2Proof.Machine

/-- Settles O44: a move of the host and the expiry of its timer both keep the device's side. -/
theorem hostMovesLeaveTheDevice : Obligations.HostMovesLeaveTheDevice := by
  intro s t h
  have hkept : DeviceSideKept s t := by
    obtain hmove | rfl := h
    · exact hostStep_keepsDeviceSide hmove
    · exact timerStep_keepsDeviceSide s
  exact ⟨hkept.dev, hkept.chip, hkept.busLog, hkept.h2d, hkept.cfg⟩

end Sys2Proof.Machine
end

section
/-! OPBUF_EXEC cut by a device reset (R162, R56): the bus cycles of the items performed before the cut, and those of the item in
progress. -/
namespace Sys2Proof.Machine

/-! ### What the bus shows -/

/-- Between two states the record of bus cycles has grown by these, newest first, and nothing has been sent or taken. -/
structure RecordGrows (cycles : List BusCycle) (s t : State) : Prop where
  busLog : t.busLog = cycles ++ s.busLog
  link : t.link = s.link

theorem RecordGrows.trans {xs ys : List BusCycle} {s t u : State} (h : RecordGrows xs s t) (k : RecordGrows ys t u) :
    RecordGrows (ys ++ xs) s u :=
  ⟨by rw [k.busLog, h.busLog, List.append_assoc], k.link.trans h.link⟩

/-- A free choice makes no bus cycle. -/
theorem draw_recordGrows (s : State) : RecordGrows [] s (draw s).2 := ⟨draw_busLog s, draw_link s⟩

/-- What the item in progress leaves in its cell is no bus cycle. -/
theorem leaveCell_recordGrows (it : Item) (s : State) : RecordGrows [] s (leaveCell it s) := by
  obtain ⟨env, h⟩ := leaveCell_frame it s
  rw [h]
  exact ⟨rfl, rfl⟩

/-- The polling before a cut, with the chip enabled and the data bus released, is at most `left` samples of the cell
addressed (R88). -/
theorem pollSome_recordGrows (v : Byte) (left : Nat) (s : State) (hce : s.dev.bus.ce = true)
    (hdrive : s.dev.bus.drive = false) :
    ∃ taken : List Byte, taken.length ≤ left
      ∧ RecordGrows (taken.map (readCycleAt s.dev.bus.addr)).reverse s (pollSome v left s) := by
  induction left generalizing s with
  | zero => exact ⟨[], le_rfl, rfl, rfl⟩
  | succ left ih =>
    have hsample : RecordGrows [readCycleAt s.dev.bus.addr (pollSample s).1] s (pollSample s).2 := by
      simp only [pollSample_eq, readCycleAt, hce, hdrive]
      exact ⟨rfl, rfl⟩
    unfold pollSome
    split
    · exact ⟨[(pollSample s).1], Nat.succ_le_succ (Nat.zero_le left), hsample⟩
    · obtain ⟨taken, hlen, htaken⟩ := ih (pollSample s).2 hce hdrive
      refine ⟨(pollSample s).1 :: taken, Nat.succ_le_succ hlen, ?_⟩
      rw [List.map_cons, List.reverse_cons]
      exact hsample.trans htaken

/-! ### The item in progress -/

/-- The bus cycles, newest first, of an item that a reset cuts: its write cycle cut off, or, where it is polled, its whole write
cycle and some samples within the budget (R162, log 4, log 16). -/
def CutItemCycles (limit : Nat) (it : Item) (cut : List BusCycle) : Prop :=
  cut = [{ writeCycleAt it.addr it.value with kind := .cutWrite }]
    ∨ (it.mode = .polled ∧ ∃ taken : List Byte, taken.length ≤ limit ∧ cut = (itemCycles it taken).reverse)

/-- An item cut in its write cycle shows that cycle alone. -/
theorem cutInWrite_recordGrows (it : Item) (s : State) :
    RecordGrows [{ writeCycleAt it.addr it.value with kind := .cutWrite }] s (cutInWrite it s) := by
  refine RecordGrows.trans ?_ (leaveCell_recordGrows it _)
  exact ⟨rfl, rfl⟩

/-- An item cut in its polling shows its write cycle and the samples taken. -/
theorem cutInPolling_recordGrows (it : Item) (n : Nat) (s : State) :
    ∃ taken : List Byte, taken.length ≤ n ∧ RecordGrows (itemCycles it taken).reverse s (cutInPolling it n s) := by
  have hw := writeCycle_eq it.addr it.value (setChipEnable true s) rfl
  have hwrite : RecordGrows [writeCycleAt it.addr it.value] s
      (setPollCnt 0 (writeCycle it.addr it.value (setChipEnable true s))) := by
    rw [hw]
    exact ⟨rfl, rfl⟩
  obtain ⟨taken, hlen, htaken⟩ := pollSome_recordGrows it.value n
    (setPollCnt 0 (writeCycle it.addr it.value (setChipEnable true s))) (by rw [hw]; rfl) (by rw [hw]; rfl)
  have haddr : (setPollCnt 0 (writeCycle it.addr it.value (setChipEnable true s))).dev.bus.addr = it.addr := by
    rw [hw]
    rfl
  rw [haddr] at htaken
  refine ⟨taken, hlen, ?_⟩
  rw [itemCycles, List.reverse_cons]
  exact (hwrite.trans htaken).trans (leaveCell_recordGrows it _)

/-- A cut item shows the cycles of one that a reset cuts. -/
theorem cutItem_recordGrows (it : Item) (s : State) :
    ∃ cut, CutItemCycles s.cfg.pollLimit it cut ∧ RecordGrows cut s (cutItem it s) := by
  simp only [cutItem]
  split
  · exact ⟨_, .inl rfl, cutInWrite_recordGrows it s⟩
  · next hmode =>
    have hlt := drawBelow_lt (s.cfg.pollLimit + 2) (Nat.succ_pos _) s
    split
    · exact ⟨_, .inl rfl, (draw_recordGrows s).trans (cutInWrite_recordGrows it _)⟩
    · next n hn =>
      obtain ⟨taken, hlen, htaken⟩ := cutInPolling_recordGrows it n (draw s).2
      rw [hn] at hlt
      have hgrows := (draw_recordGrows s).trans htaken
      rw [List.append_nil] at hgrows
      exact ⟨_, .inr ⟨hmode, taken, by omega, rfl⟩, hgrows⟩

/-! ### The drain -/

/-- A cut OPBUF_EXEC has performed a beginning of the staged items; the next may be in progress (R162). -/
theorem cutExec_recordGrows {s : State} (hlimit : 1 ≤ s.cfg.pollLimit) :
    ∃ (k : Nat) (samples : List (List Byte)) (cut : List BusCycle),
      k ≤ s.dev.opbuf.length
      ∧ samples.length = k
      ∧ (∀ (n : Nat) it ss, (s.dev.opbuf.take k)[n]? = some it → samples[n]? = some ss →
          SamplesOf s.cfg.pollLimit it ss)
      ∧ (cut = [] ∨ ∃ it, s.dev.opbuf[k]? = some it ∧ CutItemCycles s.cfg.pollLimit it cut)
      ∧ RecordGrows (cut ++ (List.zipWith itemCycles (s.dev.opbuf.take k) samples).flatten.reverse) s (cutExec s) := by
  obtain ⟨k, hk⟩ : ∃ k, (drawBelow (s.dev.opbuf.length + 1) s).1 = k := ⟨_, rfl⟩
  have hle : k ≤ s.dev.opbuf.length := Nat.le_of_lt_succ (hk ▸ drawBelow_lt _ (Nat.succ_pos _) s)
  obtain ⟨samples, hdrain⟩ := drainFrom_took 0 (s.dev.opbuf.take k) (draw s).2
  have hlen : samples.length = k := by rw [hdrain.length, List.length_take_of_le hle]
  have hsamples := hdrain.samplesOf (by rwa [draw_cfg])
  rw [draw_cfg] at hsamples
  have hgrows := (draw_recordGrows s).trans ⟨hdrain.busLog, drainFrom_link 0 (s.dev.opbuf.take k) (draw s).2⟩
  rw [List.append_nil] at hgrows
  have hcfg := (drainFrom_talks 0 (s.dev.opbuf.take k) (draw s).2).1.trans (draw_cfg s)
  simp only [cutExec, hk, drawBelow_state, drawBool_state]
  split
  · exact ⟨k, samples, [], hle, hlen, hsamples, .inl rfl, hgrows⟩
  · next it rest hdrop =>
    have hit : s.dev.opbuf[k]? = some it := by rw [← List.head?_drop, hdrop, List.head?_cons]
    split
    · obtain ⟨cut, hcut, hgrowsCut⟩ := cutItem_recordGrows it
        (draw (drainFrom 0 (s.dev.opbuf.take k) (draw s).2)).2
      rw [draw_cfg, hcfg] at hcut
      exact ⟨k, samples, cut, hle, hlen, hsamples, .inr ⟨it, hit, hcut⟩,
        (hgrows.trans (draw_recordGrows _)).trans hgrowsCut⟩
    · exact ⟨k, samples, [], hle, hlen, hsamples, .inl rfl, hgrows.trans (draw_recordGrows _)⟩

/-- In BUSY with an OPBUF_EXEC the command that a reset cuts is its drain. -/
theorem cutCommand_opbufExec {s : State} (hbusy : s.dev.fsm = .busy) (hreq : request s = some .opbufExec) :
    cutCommand s = cutExec s := by
  simp only [cutCommand, hbusy, hreq]

/-- A device reset that lands in BUSY with an OPBUF_EXEC cuts its drain. -/
theorem outsideStep_cutsExec {s : State} {rest : List Input} (hinputs : s.env.inputs = .deviceReset :: rest)
    (hbusy : s.dev.fsm = .busy) (hreq : request s = some .opbufExec) :
    outsideStep s = deviceReset (cutExec { s with env := { s.env with inputs := rest } }) :=
  (outsideStep_deviceReset hinputs).trans (congrArg deviceReset (cutCommand_opbufExec hbusy hreq))

/-- Settles O17: the cut drain says which items the bus has seen, and the reset after it touches neither the record nor the
host, and of the link the bytes waiting at the device only. -/
theorem resetCutsTheDrain : Obligations.ResetCutsTheDrain := by
  intro s inputs hlimit hinputs hbusy hreq
  obtain ⟨k, samples, cut, hle, hlen, hsamples, hcut, hgrows⟩ :=
    cutExec_recordGrows (s := { s with env := { s.env with inputs := inputs } }) hlimit
  have hhost := (cutExec_cutFrame { s with env := { s.env with inputs := inputs } }).host
  rw [outsideStep_cutsExec hinputs hbusy hreq]
  refine ⟨rfl, ?_, hhost, k, samples, cut, hle, hlen, hsamples, hcut, ?_⟩
  · simp only [deviceReset, hgrows.link]
  · exact hgrows.busLog.trans (List.append_assoc ..)

end Sys2Proof.Machine
end

section
/-! Bytes that arrive while the device is BUSY under `Either` (R166). -/
namespace Sys2Proof.Machine

/-- In BUSY under `Either` a free choice decides whether the byte waits. -/
theorem arrive_either {s : State} (hbusy : s.dev.fsm = .busy) (heither : s.cfg.rxWhileBusy = .either) (b : Byte) :
    arrive b s = if (drawBool s).1 then enqueue b (draw s).2 else (draw s).2 := by
  simp only [arrive, hbusy, heither, drawBool_state]

/-- Under `Either` a prescribed choice of 1 keeps the byte. -/
theorem arrive_scripted_keeps {s : State} {rest : List Nat} (hbusy : s.dev.fsm = .busy)
    (heither : s.cfg.rxWhileBusy = .either) (hscript : s.env.script = 1 :: rest) (b : Byte) :
    arrive b s = enqueue b { s with env := { s.env with script := rest } } := by
  simp [arrive_either hbusy heither, drawBool, draw_scripted 1 rest s hscript]

/-- Under `Either` a prescribed choice of 0 loses the byte. -/
theorem arrive_scripted_loses {s : State} {rest : List Nat} (hbusy : s.dev.fsm = .busy)
    (heither : s.cfg.rxWhileBusy = .either) (hscript : s.env.script = 0 :: rest) (b : Byte) :
    arrive b s = { s with env := { s.env with script := rest } } := by
  simp [arrive_either hbusy heither, drawBool, draw_scripted 0 rest s hscript]

/-- Under `Either` the byte is lost or waits, and the choice is all that changes besides. -/
theorem arrive_either_takes {s : State} (hbusy : s.dev.fsm = .busy) (heither : s.cfg.rxWhileBusy = .either) (b : Byte) :
    ∃ env, Drawn s.env env
      ∧ (arrive b s = { s with env := env } ∨ arrive b s = enqueue b { s with env := env }) := by
  obtain ⟨env, hdrawn, hdraw⟩ := draw_takes s
  refine ⟨env, hdrawn, ?_⟩
  rw [arrive_either hbusy heither, hdraw]
  split
  · exact .inr rfl
  · exact .inl rfl

/-- Settles O11: what `arrive` does in each of the four cases; under `Either` the choices 1 and 0 bring about the two
outcomes. -/
theorem bytesArrivingWhileBusy : Obligations.BytesArrivingWhileBusy := by
  intro s b
  refine ⟨fun hfsm => arrive_eq_enqueue (.inl hfsm) b, fun _ hbuffered => arrive_eq_enqueue (.inr hbuffered) b,
    fun hbusy hdropped => arrive_eq_self hbusy hdropped b,
    fun hbusy heither => ⟨?_, ⟨1, fun rest => ?_⟩, ⟨0, fun rest => ?_⟩⟩⟩
  · exact arrive_either_takes hbusy heither b
  · exact arrive_scripted_keeps (s := { s with env := { s.env with script := 1 :: rest } }) hbusy heither rfl b
  · exact arrive_scripted_loses (s := { s with env := { s.env with script := 0 :: rest } }) hbusy heither rfl b

end Sys2Proof.Machine
end

section
/-! The start and the end of a host program (R163, R151), and its calls between them. -/
namespace Sys2Proof.Machine

/-- A pending start of a program starts it and is used up. -/
theorem outsideStep_startHost {s : State} {calls : List Call} {rest : List Input}
    (h : s.env.inputs = .startHost calls :: rest) :
    outsideStep s = startHost calls { s with env := { s.env with inputs := rest } } := by
  simp only [outsideStep, h]

/-- With no workflow in progress the host's step starts the next call. -/
theorem hostStep_starts {s : State} {c : Call} {rest : List Call} (hphase : s.host.phase = none)
    (hcalls : s.host.calls = c :: rest) :
    hostStep s = .next (startCall c { s with host := { s.host with calls := rest } }) := by
  simp only [hostStep, hphase, hcalls]

/-- With no workflow in progress and no call left the host's step ends the program. -/
theorem hostStep_exits {s : State} (hphase : s.host.phase = none) (hcalls : s.host.calls = []) :
    hostStep s = .next (hostExit s) := by
  simp only [hostStep, hphase, hcalls]

/-- Settles O57: a start sets the host's registers to those of `HostSide.reset` with the calls to make; the host's step without
a workflow starts the next call, or ends the program. -/
theorem programsStartAndEnd : Obligations.ProgramsStartAndEnd := fun _ =>
  ⟨fun _ => ⟨rfl, rfl, rfl, rfl, rfl, rfl, rfl⟩, fun _ _ => outsideStep_startHost, fun _ _ => hostStep_starts,
    hostStep_exits⟩

end Sys2Proof.Machine
end
